-- ==== Sys2Proof/Word.lean ====
section
/-! DEFINITION. The word types of the block (spec/00_scope.md R7, R9; spec/10_state.md R23): bytes and the register widths. -/

namespace Sys2Proof

/-- Eight bits: a buffer byte, a wire byte, most registers (R7). -/
abbrev Byte := BitVec 8

/-- Sixteen bits: lengths, offsets, the manufacturer code, the year (R23). -/
abbrev Half := BitVec 16

/-- Twenty-four bits: the manufacturer letters (R23). -/
abbrev Tri := BitVec 24

/-- Thirty-two bits: the secondary address and the counter (R23). -/
abbrev Word := BitVec 32

/-- Sixty-four bits: REC_RAW, the widest register, and so what a host access carries (R23, R68). -/
abbrev Wide := BitVec 64

end Sys2Proof
end

