-- ==== Sys2Proof/Syntax.lean ====
section
/-! DEFINITION. The nine commands (spec/30_encoding.md R81), the names of the registers and buffers (spec/10_state.md R23,
spec/20_memory.md R61), the accesses that reach the block, and the statements of a host script (spec/30_encoding.md R97). -/

namespace Sys2Proof

/-- The commands, one for each row of the opcode map (R81). No command carries an operand in its word (R83). -/
inductive Instr where
  | buildShort
  | buildLong
  | checksum
  | validateShort
  | validateLong
  | checkAck
  | decodeHeader
  | walkStart
  | walkNext
deriving DecidableEq, Repr

/-- The three byte buffers (R38, R61). -/
inductive Buf where
  | ibuf
  | pbuf
  | obuf
deriving DecidableEq, Repr

/-- The registers of the REG space, under the names of R23. -/
inductive Reg where
  | cmd | opC | opA | opCI | plen | ilen | walkBase
  | status | errcode | olen
  | resLen | resC | resA | resCI | resL | resPoff | resPlen | resChk
  | hdrSecAddr | hdrManuf | hdrMtag | hdrVersion | hdrMedium | hdrAccess | hdrStatus | hdrSig
  | walkOff | walkReason | recIndex
  | recFlags | recDif | recDife | recVif | recVife | recStorage | recLen | recRawOff | recRaw
  | recKind | recValue | recYear | recMonth | recDay | recHour | recMinute
deriving DecidableEq, Repr

/-- One event of the total order of R70: a host access (R60, R61, R68), or the platform's reset (R230).
A register is addressed by number, assigned or not (R24); a buffer byte by index, inside the buffer or not (R62). -/
inductive BusEvent where
  | regWrite (num : Byte) (value : Wide)
  | regRead (num : Byte)
  | bufWrite (buf : Buf) (index : Nat) (value : Byte)
  | bufRead (buf : Buf) (index : Nat)
  | reset
deriving DecidableEq, Repr

/-- One statement of a host script (R97). `loadi`, `loadp` and `loop` are its pseudo-instructions. -/
inductive HostStmt where
  | cmd (i : Instr)
  | wr (r : Reg) (value : Nat)
  | wb (buf : Buf) (index : Nat) (bytes : List Byte)
  | rd (r : Reg)
  | rb (buf : Buf) (index count : Nat)
  | loadi (bytes : List Byte)
  | loadp (bytes : List Byte)
  | loop
deriving DecidableEq, Repr

end Sys2Proof
end

