-- ==== Sys2Proof/WellFormed.lean ====
section
/-! DEFINITION. Which terms of the syntax are well formed. A command has no operand field, so each is (spec/30_encoding.md
R80, R83); a script statement must be one that R97 gives a form and an expansion to. -/

namespace Sys2Proof

/-- Every command is well formed: its word has no field beside the opcode (R80). -/
def Instr.wf : Instr → Bool
  | .buildShort => true
  | .buildLong => true
  | .checksum => true
  | .validateShort => true
  | .validateLong => true
  | .checkAck => true
  | .decodeHeader => true
  | .walkStart => true
  | .walkNext => true

/-- A statement R97 gives a form to. DESIGN CHOICE (log entry 12), safe: `WR` moves a value no wider than the widest
register, `WB` writes at least one byte, and the byte count of `LOADI` and `LOADP` fits the 16-bit length register. -/
def HostStmt.wf : HostStmt → Bool
  | .cmd i => i.wf
  | .wr _ v => decide (v < 2 ^ 64)
  | .wb _ _ bytes => !bytes.isEmpty
  | .rd _ => true
  | .rb _ _ _ => true
  | .loadi bytes => decide (bytes.length < 2 ^ 16)
  | .loadp bytes => decide (bytes.length < 2 ^ 16)
  | .loop => true

end Sys2Proof
end

