-- ==== Sys2Proof/Decode.lean ====
section
/-! DEFINITION. The command word (spec/30_encoding.md R80 to R82): decoder, encoder, and the form the host's checks ask for;
and the register numbers of the REG space (spec/10_state.md R23). -/

namespace Sys2Proof

/-- Why a byte written to CMD is no command (R82). -/
inductive DecodeReject where
  /-- The value names no command: 0x00 or 0x0A to 0xFF (R82). -/
  | illegalCommand (value : Byte)
deriving DecidableEq, Repr

/-- The decoder: total on every byte, by the opcode map of R81; every other byte is rejected by name (R82). -/
def decode (b : Byte) : Except DecodeReject Instr :=
  match b with
  | 0x01#8 => .ok .buildShort
  | 0x02#8 => .ok .buildLong
  | 0x03#8 => .ok .checksum
  | 0x04#8 => .ok .validateShort
  | 0x05#8 => .ok .validateLong
  | 0x06#8 => .ok .checkAck
  | 0x07#8 => .ok .decodeHeader
  | 0x08#8 => .ok .walkStart
  | 0x09#8 => .ok .walkNext
  | _ => .error (.illegalCommand b)

/-- The encoder: the command word of each row of R81. -/
def encode : Instr → Byte
  | .buildShort => 0x01#8
  | .buildLong => 0x02#8
  | .checksum => 0x03#8
  | .validateShort => 0x04#8
  | .validateLong => 0x05#8
  | .checkAck => 0x06#8
  | .decodeHeader => 0x07#8
  | .walkStart => 0x08#8
  | .walkNext => 0x09#8

/-- The instruction the decoder reads from a table word. A command is one byte (R80), so a number with a bit above
bit 7 set is no command word. -/
def decodeTableWord (_nbits w : Nat) : Option Instr :=
  if w < 256 then (decode (BitVec.ofNat 8 w)).toOption else none

/-- The register numbers of R23. -/
def Reg.num : Reg → Byte
  | .cmd => 0x00#8
  | .opC => 0x01#8
  | .opA => 0x02#8
  | .opCI => 0x03#8
  | .plen => 0x04#8
  | .ilen => 0x05#8
  | .walkBase => 0x06#8
  | .status => 0x10#8
  | .errcode => 0x11#8
  | .olen => 0x12#8
  | .resLen => 0x13#8
  | .resC => 0x14#8
  | .resA => 0x15#8
  | .resCI => 0x16#8
  | .resL => 0x17#8
  | .resPoff => 0x18#8
  | .resPlen => 0x19#8
  | .resChk => 0x1A#8
  | .hdrSecAddr => 0x20#8
  | .hdrManuf => 0x21#8
  | .hdrMtag => 0x22#8
  | .hdrVersion => 0x23#8
  | .hdrMedium => 0x24#8
  | .hdrAccess => 0x25#8
  | .hdrStatus => 0x26#8
  | .hdrSig => 0x27#8
  | .walkOff => 0x30#8
  | .walkReason => 0x31#8
  | .recIndex => 0x32#8
  | .recFlags => 0x33#8
  | .recDif => 0x34#8
  | .recDife => 0x35#8
  | .recVif => 0x36#8
  | .recVife => 0x37#8
  | .recStorage => 0x38#8
  | .recLen => 0x39#8
  | .recRawOff => 0x3A#8
  | .recRaw => 0x3B#8
  | .recKind => 0x3C#8
  | .recValue => 0x3D#8
  | .recYear => 0x3E#8
  | .recMonth => 0x3F#8
  | .recDay => 0x40#8
  | .recHour => 0x41#8
  | .recMinute => 0x42#8

/-- The register a number names; the other numbers are unassigned (R23, R24, R60). -/
def Reg.ofNum (n : Byte) : Option Reg :=
  match n with
  | 0x00#8 => some .cmd
  | 0x01#8 => some .opC
  | 0x02#8 => some .opA
  | 0x03#8 => some .opCI
  | 0x04#8 => some .plen
  | 0x05#8 => some .ilen
  | 0x06#8 => some .walkBase
  | 0x10#8 => some .status
  | 0x11#8 => some .errcode
  | 0x12#8 => some .olen
  | 0x13#8 => some .resLen
  | 0x14#8 => some .resC
  | 0x15#8 => some .resA
  | 0x16#8 => some .resCI
  | 0x17#8 => some .resL
  | 0x18#8 => some .resPoff
  | 0x19#8 => some .resPlen
  | 0x1A#8 => some .resChk
  | 0x20#8 => some .hdrSecAddr
  | 0x21#8 => some .hdrManuf
  | 0x22#8 => some .hdrMtag
  | 0x23#8 => some .hdrVersion
  | 0x24#8 => some .hdrMedium
  | 0x25#8 => some .hdrAccess
  | 0x26#8 => some .hdrStatus
  | 0x27#8 => some .hdrSig
  | 0x30#8 => some .walkOff
  | 0x31#8 => some .walkReason
  | 0x32#8 => some .recIndex
  | 0x33#8 => some .recFlags
  | 0x34#8 => some .recDif
  | 0x35#8 => some .recDife
  | 0x36#8 => some .recVif
  | 0x37#8 => some .recVife
  | 0x38#8 => some .recStorage
  | 0x39#8 => some .recLen
  | 0x3A#8 => some .recRawOff
  | 0x3B#8 => some .recRaw
  | 0x3C#8 => some .recKind
  | 0x3D#8 => some .recValue
  | 0x3E#8 => some .recYear
  | 0x3F#8 => some .recMonth
  | 0x40#8 => some .recDay
  | 0x41#8 => some .recHour
  | 0x42#8 => some .recMinute
  | _ => none

end Sys2Proof
end

