-- ==== Sys2Proof/Config.lean ====
section
/-! DEFINITION. What an implementation fixes (spec/00_scope.md R7) and the one free value of the spec, the byte a buffer
holds before anything has written it (spec/70_reset_and_hazards.md R231). -/

namespace Sys2Proof

/-- The OPEN parameters of R7. They are fixed for one machine; State carries them so that a claim can hold for every size (D5). -/
structure Params where
  ibufSize : Nat
  pbufSize : Nat
deriving DecidableEq, Repr

/-- The constraints R7 puts on the parameters. -/
abbrev Params.ok (p : Params) : Prop := 261 ≤ p.ibufSize ∧ 252 ≤ p.pbufSize

/-- The spec's default sizes (R7). DESIGN CHOICE (log entry 4): State.reset has them. -/
def Config.defaultParams : Params := { ibufSize := 261, pbufSize := 252 }

/-- OBUF_SIZE, fixed (R7). -/
def Config.obufSize : Nat := 261

/-- The reset value of WALK_BASE (R7, R23, R29, R231). -/
def Config.walkBaseReset : Half := 0x000C#16

/-- What byte `index` of a buffer holds after reset number `epoch` until something writes it: unspecified (R231), so a
free value with no body. -/
opaque Config.resetByte (epoch : Nat) (buf : Buf) (index : Nat) : Byte

end Sys2Proof
end

