-- ==== Sys2Proof/Machine/State.lean ====
section
/-! DEFINITION. The state of the block (spec/10_state.md R23 to R41), the model's input queue beside it, the reasons a step
could stop, and the state after reset (spec/70_reset_and_hazards.md R231). -/

namespace Sys2Proof.Machine

/-- STATUS.FKIND: the kind of the frame held valid in IBUF (R30). -/
inductive FrameKind where
  | none
  | ack
  | short
  | long
deriving DecidableEq, Repr

/-- STATUS (R30) by its four fields; its other bits read 0 and hold nothing (log entry 6). -/
structure Status where
  err : Bool
  walkActive : Bool
  recValid : Bool
  fkind : FrameKind
deriving DecidableEq, Repr

/-- The error codes of R200. -/
inductive ErrCode where
  | ok
  | tooShort
  | start
  | stop
  | checksum
  | lenMismatch
  | lenExceeds
  | lenField
  | notAck
  | payloadTooLong
  | operand
  | state
  | headerShort
  | illegalCmd
deriving DecidableEq, Repr

/-- WALK_REASON: why the last walk ended (R35). -/
inductive WalkReason where
  | none
  | endOfData
  | reservedDfc
  | truncated
deriving DecidableEq, Repr

/-- REC_KIND: the variant of a record's value (R36). -/
inductive RecKind where
  | raw
  | date
  | datetime
  | counter32
deriving DecidableEq, Repr

/-- The host-written registers 0x00 to 0x06 (R25 to R29). -/
structure OperandRegs where
  cmd : Byte
  opC : Byte
  opA : Byte
  opCI : Byte
  plen : Half
  ilen : Half
  walkBase : Half
deriving DecidableEq, Repr

/-- The eight RES_* registers (R33). -/
structure ResRegs where
  len : Half
  c : Byte
  a : Byte
  ci : Byte
  l : Byte
  poff : Half
  plen : Half
  chk : Byte
deriving DecidableEq, Repr

/-- All eight RES_* registers 0 (R33, R120). -/
def ResRegs.zero : ResRegs :=
  { len := 0, c := 0, a := 0, ci := 0, l := 0, poff := 0, plen := 0, chk := 0 }

/-- The eight HDR_* registers (R34). -/
structure HdrRegs where
  secAddr : Word
  manuf : Half
  mtag : Tri
  version : Byte
  medium : Byte
  access : Byte
  status : Byte
  sig : Half
deriving DecidableEq, Repr

/-- All eight HDR_* registers 0 (R34). -/
def HdrRegs.zero : HdrRegs :=
  { secAddr := 0, manuf := 0, mtag := 0, version := 0, medium := 0, access := 0, status := 0, sig := 0 }

/-- The walker state WALK_OFF, WALK_REASON, REC_INDEX (R35). -/
structure WalkRegs where
  off : Half
  reason : WalkReason
  index : Half
deriving DecidableEq, Repr

/-- The sixteen REC_* registers 0x33 to 0x42 (R36, R37). -/
structure RecRegs where
  flags : Byte
  dif : Byte
  dife : Byte
  vif : Byte
  vife : Byte
  storage : Byte
  len : Byte
  rawOff : Half
  raw : Wide
  kind : RecKind
  value : Word
  year : Half
  month : Byte
  day : Byte
  hour : Byte
  minute : Byte
deriving DecidableEq, Repr

/-- All sixteen REC_* registers 0 (R36). -/
def RecRegs.zero : RecRegs :=
  { flags := 0, dif := 0, dife := 0, vif := 0, vife := 0, storage := 0, len := 0, rawOff := 0, raw := 0, kind := .raw,
    value := 0, year := 0, month := 0, day := 0, hour := 0, minute := 0 }

/-- A buffer's contents: the bytes written since reset, by index, the indices strictly rising (`Memory.wf`). An unlisted
index holds no written byte; what it reads as is `State.bufByte`'s to say (log entry 3). -/
abbrev Memory := List Host.Cell

/-- The host's side of the bus, the model's own (log entries 1 and 8): the accesses it is about to make in order, the
script statements not yet expanded, and the values its reads have returned, the newest first. -/
structure HostPort where
  pending : List BusEvent
  script : List HostStmt
  reads : List Wide
deriving DecidableEq, Repr

/-- Everything the spec gives the block (R23, R38, R7), and the model's own `epoch` and `host`. -/
structure State where
  params : Params
  epoch : Nat
  ops : OperandRegs
  status : Status
  errcode : ErrCode
  olen : Half
  res : ResRegs
  hdr : HdrRegs
  walk : WalkRegs
  record : RecRegs
  ibuf : Memory
  pbuf : Memory
  obuf : Memory
  host : HostPort
deriving DecidableEq, Repr

/-- No step stops: an error is a status report and the block is ready for the next command (R202, R206), every access is
answered (R24, R62). So there is no fault to name (log entry 7). -/
inductive Fault : Type
deriving DecidableEq, Repr

/-- The refusals. -/
inductive Refusal where
  /-- An instruction without a meaning, refused by an arm of `exec`; no arm raises it. Safe. -/
  | notModelled (mnemonic : String)
deriving DecidableEq, Repr

/-- What a command or an event answers. -/
abbrev Result := Host.Outcome State Fault Refusal

/-- The state after reset (R230, R231): every register 0 but WALK_BASE, no byte of a buffer written. -/
def State.reset : State :=
  { params := Config.defaultParams
    epoch := 0
    ops := { cmd := 0, opC := 0, opA := 0, opCI := 0, plen := 0, ilen := 0, walkBase := Config.walkBaseReset }
    status := { err := false, walkActive := false, recValid := false, fkind := .none }
    errcode := .ok
    olen := 0
    res := ResRegs.zero
    hdr := HdrRegs.zero
    walk := { off := 0, reason := .none, index := 0 }
    record := RecRegs.zero
    ibuf := []
    pbuf := []
    obuf := []
    host := { pending := [], script := [], reads := [] } }

end Sys2Proof.Machine
end

