-- ==== Sys2Proof/Machine/Flags.lean ====
section
/-! DEFINITION. STATUS and the coded registers as the host reads them (spec/10_state.md R30, R31, R35, R36;
spec/60_exceptions.md R200), and the named updates of State. -/

namespace Sys2Proof.Machine

/-- The number of FKIND (R30). -/
def FrameKind.code : FrameKind → BitVec 2
  | .none => 0
  | .ack => 1
  | .short => 2
  | .long => 3

/-- The error codes' numbers (R200). -/
def ErrCode.code : ErrCode → Byte
  | .ok => 0x00#8
  | .tooShort => 0x01#8
  | .start => 0x02#8
  | .stop => 0x03#8
  | .checksum => 0x04#8
  | .lenMismatch => 0x05#8
  | .lenExceeds => 0x06#8
  | .lenField => 0x07#8
  | .notAck => 0x08#8
  | .payloadTooLong => 0x09#8
  | .operand => 0x0A#8
  | .state => 0x0B#8
  | .headerShort => 0x0C#8
  | .illegalCmd => 0x0D#8

/-- WALK_REASON's numbers (R35). -/
def WalkReason.code : WalkReason → Byte
  | .none => 0
  | .endOfData => 1
  | .reservedDfc => 2
  | .truncated => 3

/-- REC_KIND's numbers (R36). -/
def RecKind.code : RecKind → Byte
  | .raw => 0
  | .date => 1
  | .datetime => 2
  | .counter32 => 3

/-- STATUS as a byte: ERR bit 0, WALK_ACTIVE bit 1, REC_VALID bit 2, FKIND bits 5:4, the others 0 (R30). -/
def Status.toByte (st : Status) : Byte :=
  (BitVec.ofBool st.err).setWidth 8 ||| ((BitVec.ofBool st.walkActive).setWidth 8 <<< 1) |||
    ((BitVec.ofBool st.recValid).setWidth 8 <<< 2) ||| (st.fkind.code.setWidth 8 <<< 4)

/-! The named updates: each writes one home of State and nothing else (Sys2Proof/Laws/State.lean says so field by field). -/

/-- Write STATUS.ERR and ERRCODE, which every command's end writes together (R202, R203). -/
def State.report (s : State) (failed : Bool) (code : ErrCode) : State :=
  { s with status := { s.status with err := failed }, errcode := code }

/-- Write STATUS.FKIND. -/
def State.setFkind (s : State) (k : FrameKind) : State := { s with status := { s.status with fkind := k } }

/-- Write STATUS.WALK_ACTIVE. -/
def State.setWalkActive (s : State) (b : Bool) : State := { s with status := { s.status with walkActive := b } }

/-- Write STATUS.REC_VALID. -/
def State.setRecValid (s : State) (b : Bool) : State := { s with status := { s.status with recValid := b } }

/-- Write OLEN. -/
def State.setOlen (s : State) (v : Half) : State := { s with olen := v }

/-- Write the eight RES_* registers. -/
def State.setRes (s : State) (r : ResRegs) : State := { s with res := r }

/-- Write RES_CHK alone. -/
def State.setResChk (s : State) (v : Byte) : State := { s with res := { s.res with chk := v } }

/-- Write the eight HDR_* registers. -/
def State.setHdr (s : State) (h : HdrRegs) : State := { s with hdr := h }

/-- Write WALK_OFF, WALK_REASON and REC_INDEX. -/
def State.setWalk (s : State) (w : WalkRegs) : State := { s with walk := w }

/-- Write the sixteen REC_* registers. -/
def State.setRecord (s : State) (r : RecRegs) : State := { s with record := r }

/-- Write the host-written registers. -/
def State.setOps (s : State) (o : OperandRegs) : State := { s with ops := o }

/-- Write the contents of IBUF. -/
def State.setIbuf (s : State) (m : Memory) : State := { s with ibuf := m }

/-- Write the contents of PBUF. -/
def State.setPbuf (s : State) (m : Memory) : State := { s with pbuf := m }

/-- Write the contents of OBUF. -/
def State.setObuf (s : State) (m : Memory) : State := { s with obuf := m }

/-- Write the host's side of the bus. -/
def State.setHost (s : State) (h : HostPort) : State := { s with host := h }

/-- FKIND NONE, WALK_ACTIVE 0, REC_VALID 0, and no other register: what a host write to IBUF or ILEN does (R39) and what
each validate-family command starts with (R120). -/
def State.invalidate (s : State) : State := ((s.setFkind .none).setWalkActive false).setRecValid false

end Sys2Proof.Machine
end

