-- ==== Sys2Proof/Machine/Wire.lean ====
section
/-! DEFINITION. The wire constants (spec/00_scope.md R8), the frames as byte lists (spec/30_encoding.md R84, R85), and the
bit fields of the record formats (spec/30_encoding.md R90 to R95). -/

namespace Sys2Proof.Machine

/-! The constants of R8. -/

def shortStart : Byte := 0x10#8
def longStart : Byte := 0x68#8
def stopByte : Byte := 0x16#8
def ackByte : Byte := 0xE5#8
def vifDateTime : Byte := 0x6D#8
def vifDate : Byte := 0x6C#8
def yearBase : Half := 2000#16
def letterBase : Byte := 64#8

/-- The data-field length table LTAB (R8, R90). -/
def ltab : List Nat := [0, 1, 2, 3, 4, 4, 6, 8]

/-- MAX_PAYLOAD, the largest payload a long frame carries (R7). -/
def maxPayload : Nat := 252

/-- The size of the RSPUD12-style header (R151). -/
def headerSize : Nat := 12

/-- The sum of a list of bytes, before it is truncated. -/
def byteTotal : List Byte → Nat
  | [] => 0
  | b :: bs => b.toNat + byteTotal bs

/-- The truncated sum: the sum of the bytes mod 256, 0 for no bytes (R11, R103). -/
def sum8 (bs : List Byte) : Byte := BitVec.ofNat 8 (byteTotal bs)

/-- The little-endian value of a list of bytes: the first is the least significant (R10, R65). -/
def leValue : List Byte → Nat
  | [] => 0
  | b :: bs => b.toNat + 256 * leValue bs

/-- The first `n` bytes of a value, the least significant first (R10's MemWrite). -/
def leBytes : Nat → Nat → List Byte
  | 0, _ => []
  | n + 1, v => BitVec.ofNat 8 v :: leBytes n (v / 256)

/-- A short frame: `10 C A CHK 16`, CHK the sum of exactly C and A (R84, R101). -/
def shortFrame (c a : Byte) : List Byte := [shortStart, c, a, sum8 [c, a], stopByte]

/-- The length byte L of a long frame with `n` payload bytes (R85). -/
def longLength (n : Nat) : Byte := BitVec.ofNat 8 (n + 3)

/-- A long frame: `68 L L 68 C A CI payload CHK 16`, CHK the sum of C, A, CI and the payload (R85, R103). -/
def longFrame (c a ci : Byte) (payload : List Byte) : List Byte :=
  [longStart, longLength payload.length, longLength payload.length, longStart] ++ (c :: a :: ci :: payload) ++
    [sum8 (c :: a :: ci :: payload), stopByte]

/-- The data field code, DIF bits 3:0 (R90). -/
def difCode (dif : Byte) : BitVec 4 := dif.extractLsb' 0 4

/-- hasDifExt, DIF bit 7 (R90). -/
def difHasExt (dif : Byte) : Bool := dif.getLsbD 7

/-- hasVifExt, VIF bit 7 (R92). -/
def vifHasExt (vif : Byte) : Bool := vif.getLsbD 7

/-- The data byte count of a data field code: LTAB for 0 to 7, none for the reserved codes 8 to 15 (R90, R172). -/
def dataLength (code : BitVec 4) : Option Nat := ltab[code.toNat]?

/-- The storage number: DIF bit 6, and DIFE bits 3:0 above it. An absent DIFE is held as 0 (R36), which adds nothing (R173). -/
def storageNumber (dif dife : Byte) : Byte :=
  (dif.extractLsb' 6 1).setWidth 8 ||| ((dife.extractLsb' 0 4).setWidth 8 <<< 1)

/-- REC_FLAGS: dataFieldCode in bits 3:0, hasDifExt bit 4, hasVifExt bit 5 (R37). -/
def recFlags (dif vif : Byte) : Byte :=
  (difCode dif).setWidth 8 ||| ((dif.extractLsb' 7 1).setWidth 8 <<< 4) ||| ((vif.extractLsb' 7 1).setWidth 8 <<< 5)

/-- Byte `k` of a record's raw value (R36: byte i in bits 8i+7 : 8i). -/
def rawByte (raw : Wide) (k : Nat) : Byte := raw.extractLsb' (8 * k) 8

/-- The year of a compact date from its two packed bytes (R94, R95). -/
def compactYear (lo hi : Byte) : Half :=
  yearBase + ((lo >>> 5).setWidth 16 ||| ((hi &&& 0xF0#8) >>> 1).setWidth 16)

/-- The day, bits 4:0 of the first packed byte (R94, R95). -/
def compactDay (lo : Byte) : Byte := lo &&& 0x1F#8

/-- The month, bits 3:0 of the second packed byte (R94, R95). -/
def compactMonth (hi : Byte) : Byte := hi &&& 0x0F#8

/-- A manufacturer letter: 64 + a five-bit group (R153). -/
def manufLetter (group : BitVec 5) : Byte := letterBase + group.setWidth 8

/-- The manufacturer tag: the letters of bits 14:10, 9:5 and 4:0, the first in bits 23:16; bit 15 is not read (R152, R153). -/
def manufTag (m : Half) : Tri :=
  manufLetter (m.extractLsb' 10 5) ++ manufLetter (m.extractLsb' 5 5) ++ manufLetter (m.extractLsb' 0 5)

end Sys2Proof.Machine
end

