-- ==== Sys2Proof/Machine/Ops.lean ====
section
/-! DEFINITION. The shared operations: buffer memory, the byte accessor of the buffers (spec/20_memory.md R61, R62), and the
two ends of a command, success and error (spec/60_exceptions.md R202, R203, R205). -/

namespace Sys2Proof.Machine

/-- The canonical form of a buffer's contents: the indices strictly rise. An unlisted index holds no written byte, so no
entry can equal what an unlisted one holds, and equal contents are equal lists (log entry 3). -/
abbrev Memory.wf (m : Memory) : Prop := m.Pairwise (fun x y => x.1 < y.1)

/-- Every written index lies below the buffer's size. -/
abbrev Memory.below (m : Memory) (size : Nat) : Prop := ∀ c ∈ m, c.1 < size

/-- The byte written at an index, if one was. -/
def Memory.get (m : Memory) (i : Nat) : Option Byte :=
  match m with
  | [] => none
  | (k, v) :: rest => if k = i then some v else Memory.get rest i

/-- Write one byte, keeping the indices rising. -/
def Memory.put (m : Memory) (i : Nat) (b : Byte) : Memory :=
  match m with
  | [] => [(i, b)]
  | (k, v) :: rest =>
    if i < k then (i, b) :: (k, v) :: rest
    else if i = k then (i, b) :: rest
    else (k, v) :: Memory.put rest i b

/-- Write consecutive bytes from an index (R10's OBUF[i] <- b, byte by byte). -/
def Memory.putBytes (m : Memory) (i : Nat) (bs : List Byte) : Memory :=
  match bs with
  | [] => m
  | b :: rest => Memory.putBytes (m.put i b) (i + 1) rest

/-- R10's MemWrite: write `v` little-endian to `n` bytes. -/
def Memory.putLe (m : Memory) (i n v : Nat) : Memory := m.putBytes i (leBytes n v)

/-- The contents of a buffer. -/
def State.mem (s : State) : Buf → Memory
  | .ibuf => s.ibuf
  | .pbuf => s.pbuf
  | .obuf => s.obuf

/-- The size of a buffer (R7, R38, R61). -/
def State.bufSize (s : State) : Buf → Nat
  | .ibuf => s.params.ibufSize
  | .pbuf => s.params.pbufSize
  | .obuf => Config.obufSize

/-- Byte `i` of a buffer, the one accessor of commands and host alike: the byte written there; before any write since reset
a free value (R231); and 0 at or above the buffer's size (R62; for a command's read DEDUCED, log entry 16). -/
def State.bufByte (s : State) (b : Buf) (i : Nat) : Byte :=
  if i < s.bufSize b then ((s.mem b).get i).getD (Config.resetByte s.epoch b i) else 0

/-- The `n` bytes a reader gives from index `i` on. -/
def readBytes (rd : Nat → Byte) (i : Nat) : Nat → List Byte
  | 0 => []
  | n + 1 => rd i :: readBytes rd (i + 1) n

/-- R10's MemRead: `n` bytes of a buffer from index `i`, little-endian. -/
def State.memRead (s : State) (b : Buf) (i n : Nat) : Nat := leValue (readBytes (s.bufByte b) i n)

/-- IB(p): byte p of the payload of the long frame held in IBUF (R10, R86). -/
def State.payloadByte (s : State) (p : Nat) : Byte := s.bufByte .ibuf (7 + p)

/-- The families of R202: whose result registers an error clears. The walker's two commands clear different fields. -/
inductive Family where
  | build
  | checksum
  | validate
  | header
  | walkStart
  | walkNext
deriving DecidableEq, Repr

/-- Clear the result registers of a command's family (R202). -/
def State.clearFamily (s : State) : Family → State
  | .build => s.setOlen 0
  | .checksum => s.setResChk 0
  | .validate => s.invalidate.setRes ResRegs.zero
  | .header => s.setHdr HdrRegs.zero
  | .walkStart => ((s.setRecord RecRegs.zero).setRecValid false).setWalkActive false
  | .walkNext => (s.setRecord RecRegs.zero).setRecValid false

/-- `raise Error(code)`, the block's one way to take an error (R11, R202): STATUS.ERR 1, ERRCODE the code, the family's
results 0, nothing else; nothing is saved and nothing is returned to (R206). -/
def raiseError (fam : Family) (code : ErrCode) (s : State) : Result := .next ((s.clearFamily fam).report true code)

/-- `finish()`: STATUS.ERR 0 and ERRCODE 0, after the command's own writes (R11, R203). -/
def finish (s : State) : Result := .next (s.report false .ok)

/-- The illegal-command outcome: STATUS.ERR 1, ERRCODE ERR_ILLEGAL_CMD, nothing else (R205). -/
def illegalCommand (s : State) : Result := .next (s.report true .illegalCmd)

end Sys2Proof.Machine
end

