-- ==== Sys2Proof/Machine/Operands.lean ====
section
/-! DEFINITION. The operand forms of the commands (spec/30_encoding.md R83) and the host's access to registers and buffers
(spec/10_state.md R23 to R29, R39; spec/20_memory.md R60 to R62, R68). -/

namespace Sys2Proof.Machine

/-- The payload operand PBUF[0 .. PLEN-1] of BUILD_LONG and CHECKSUM (R27). -/
def State.payloadOperand (s : State) : List Byte := readBytes (s.bufByte .pbuf) 0 s.ops.plen.toNat

/-- The operand check of a command that reads PLEN (R27, R201). -/
abbrev State.plenTooBig (s : State) : Prop := s.params.pbufSize < s.ops.plen.toNat

/-- The operand check of a command that reads ILEN (R28, R201). -/
abbrev State.ilenTooBig (s : State) : Prop := s.params.ibufSize < s.ops.ilen.toNat

/-- A register as the host reads it, zero-extended (R23, R68). -/
def State.readReg (s : State) (r : Reg) : Wide :=
  match r with
  | .cmd => s.ops.cmd.setWidth 64
  | .opC => s.ops.opC.setWidth 64
  | .opA => s.ops.opA.setWidth 64
  | .opCI => s.ops.opCI.setWidth 64
  | .plen => s.ops.plen.setWidth 64
  | .ilen => s.ops.ilen.setWidth 64
  | .walkBase => s.ops.walkBase.setWidth 64
  | .status => s.status.toByte.setWidth 64
  | .errcode => s.errcode.code.setWidth 64
  | .olen => s.olen.setWidth 64
  | .resLen => s.res.len.setWidth 64
  | .resC => s.res.c.setWidth 64
  | .resA => s.res.a.setWidth 64
  | .resCI => s.res.ci.setWidth 64
  | .resL => s.res.l.setWidth 64
  | .resPoff => s.res.poff.setWidth 64
  | .resPlen => s.res.plen.setWidth 64
  | .resChk => s.res.chk.setWidth 64
  | .hdrSecAddr => s.hdr.secAddr.setWidth 64
  | .hdrManuf => s.hdr.manuf.setWidth 64
  | .hdrMtag => s.hdr.mtag.setWidth 64
  | .hdrVersion => s.hdr.version.setWidth 64
  | .hdrMedium => s.hdr.medium.setWidth 64
  | .hdrAccess => s.hdr.access.setWidth 64
  | .hdrStatus => s.hdr.status.setWidth 64
  | .hdrSig => s.hdr.sig.setWidth 64
  | .walkOff => s.walk.off.setWidth 64
  | .walkReason => s.walk.reason.code.setWidth 64
  | .recIndex => s.walk.index.setWidth 64
  | .recFlags => s.record.flags.setWidth 64
  | .recDif => s.record.dif.setWidth 64
  | .recDife => s.record.dife.setWidth 64
  | .recVif => s.record.vif.setWidth 64
  | .recVife => s.record.vife.setWidth 64
  | .recStorage => s.record.storage.setWidth 64
  | .recLen => s.record.len.setWidth 64
  | .recRawOff => s.record.rawOff.setWidth 64
  | .recRaw => s.record.raw
  | .recKind => s.record.kind.code.setWidth 64
  | .recValue => s.record.value.setWidth 64
  | .recYear => s.record.year.setWidth 64
  | .recMonth => s.record.month.setWidth 64
  | .recDay => s.record.day.setWidth 64
  | .recHour => s.record.hour.setWidth 64
  | .recMinute => s.record.minute.setWidth 64

/-- A host read of a register number: 0 for an unassigned one (R24). -/
def State.hostReadReg (s : State) (num : Byte) : Wide :=
  match Reg.ofNum num with
  | some r => s.readReg r
  | none => 0

/-- A host write to a register that starts no command: an RW register stores the value truncated to its width (R24), ILEN
also invalidates the held frame (R28, R39), and an RO register ignores the write (R24). CMD stores here as the others
do; the command it starts is `hostWriteCmd`'s to run (R25). -/
def State.writeReg (s : State) (r : Reg) (v : Wide) : State :=
  match r with
  | .cmd => s.setOps { s.ops with cmd := v.setWidth 8 }
  | .opC => s.setOps { s.ops with opC := v.setWidth 8 }
  | .opA => s.setOps { s.ops with opA := v.setWidth 8 }
  | .opCI => s.setOps { s.ops with opCI := v.setWidth 8 }
  | .plen => s.setOps { s.ops with plen := v.setWidth 16 }
  | .ilen => (s.setOps { s.ops with ilen := v.setWidth 16 }).invalidate
  | .walkBase => s.setOps { s.ops with walkBase := v.setWidth 16 }
  | .status | .errcode | .olen => s
  | .resLen | .resC | .resA | .resCI | .resL | .resPoff | .resPlen | .resChk => s
  | .hdrSecAddr | .hdrManuf | .hdrMtag | .hdrVersion | .hdrMedium | .hdrAccess | .hdrStatus | .hdrSig => s
  | .walkOff | .walkReason | .recIndex => s
  | .recFlags | .recDif | .recDife | .recVif | .recVife | .recStorage | .recLen | .recRawOff | .recRaw => s
  | .recKind | .recValue | .recYear | .recMonth | .recDay | .recHour | .recMinute => s

/-- A host write of a buffer byte: IBUF and PBUF below their size take it, and an IBUF write invalidates the held frame
(R39); OBUF and every index at or above the size ignore it, with no side effect (R62). -/
def State.hostWriteByte (s : State) (b : Buf) (i : Nat) (v : Byte) : State :=
  if i < s.bufSize b then
    match b with
    | .ibuf => (s.setIbuf (s.ibuf.put i v)).invalidate
    | .pbuf => s.setPbuf (s.pbuf.put i v)
    | .obuf => s
  else s

end Sys2Proof.Machine
end

