-- ==== Sys2Proof/Machine/Build.lean ====
section
/-! DEFINITION. The build family: BUILD_SHORT, BUILD_LONG, CHECKSUM (spec/40_frame_build.md R100 to R105). -/

namespace Sys2Proof.Machine

/-- BUILD_SHORT (R100). -/
def execBuildShort (s : State) : Result :=
  finish ((s.setObuf (s.obuf.putBytes 0 (shortFrame s.ops.opC s.ops.opA))).setOlen 5#16)

/-- BUILD_LONG (R102): the operand check first, then the payload limit, then the frame. -/
def execBuildLong (s : State) : Result :=
  if s.plenTooBig then raiseError .build .operand s
  else if maxPayload < s.ops.plen.toNat then raiseError .build .payloadTooLong s
  else
    finish ((s.setObuf (s.obuf.putBytes 0 (longFrame s.ops.opC s.ops.opA s.ops.opCI s.payloadOperand))).setOlen
      (s.ops.plen + 9#16))

/-- CHECKSUM (R104). -/
def execChecksum (s : State) : Result :=
  if s.plenTooBig then raiseError .checksum .operand s
  else finish (s.setResChk (sum8 s.payloadOperand))

end Sys2Proof.Machine
end

