-- ==== Sys2Proof/Machine/Header.lean ====
section
/-! DEFINITION. DECODE_HEADER (spec/42_header_decode.md R150 to R154). -/

namespace Sys2Proof.Machine

/-- The header fields at their IBUF indices (R151, R152). PRESUMED by the spec itself (G1, log entry 9): the width of the
status field and the width and byte order of the signature. -/
def State.headerFields (s : State) : HdrRegs :=
  { secAddr := BitVec.ofNat 32 (s.memRead .ibuf 7 4)
    manuf := BitVec.ofNat 16 (s.memRead .ibuf 11 2)
    mtag := manufTag (BitVec.ofNat 16 (s.memRead .ibuf 11 2))
    version := s.bufByte .ibuf 13
    medium := s.bufByte .ibuf 14
    access := s.bufByte .ibuf 15
    status := s.bufByte .ibuf 16
    sig := BitVec.ofNat 16 (s.memRead .ibuf 17 2) }

/-- DECODE_HEADER (R152). -/
def execDecodeHeader (s : State) : Result :=
  if s.status.fkind ≠ .long then raiseError .header .state s
  else if s.res.plen.toNat < headerSize then raiseError .header .headerShort s
  else finish (s.setHdr s.headerFields)

end Sys2Proof.Machine
end

