-- ==== Sys2Proof/Machine/Validate.lean ====
section
/-! DEFINITION. The validate family: VALIDATE_SHORT, VALIDATE_LONG, CHECK_ACK (spec/41_frame_validate.md R120 to R129). -/

namespace Sys2Proof.Machine

/-- The checks of VALIDATE_SHORT after the operand check, in R121's order: the first that fails, or none. `rd` reads
IBUF, `len` is ILEN. -/
def shortFrameError (rd : Nat → Byte) (len : Nat) : Option ErrCode :=
  if len < 5 then some .tooShort
  else if rd 0 ≠ shortStart then some .start
  else if rd 4 ≠ stopByte then some .stop
  else if rd 3 ≠ sum8 (readBytes rd 1 2) then some .checksum
  else none

/-- The RES_* registers of an accepted short frame (R121). -/
def shortFrameRes (rd : Nat → Byte) : ResRegs :=
  { ResRegs.zero with len := 5#16, c := rd 1, a := rd 2, chk := sum8 (readBytes rd 1 2) }

/-- The checks of VALIDATE_LONG after the operand check, in R124's order. -/
def longFrameError (rd : Nat → Byte) (len : Nat) : Option ErrCode :=
  if len < 9 then some .tooShort
  else if rd 1 ≠ rd 2 then some .lenMismatch
  else if rd 0 ≠ longStart ∨ rd 3 ≠ longStart then some .start
  else if (rd 1).toNat < 3 then some .lenField
  else if len < (rd 1).toNat + 6 then some .lenExceeds
  else if rd ((rd 1).toNat + 5) ≠ stopByte then some .stop
  else if rd ((rd 1).toNat + 4) ≠ sum8 (readBytes rd 4 (rd 1).toNat) then some .checksum
  else none

/-- The RES_* registers of an accepted long frame (R124, R125). -/
def longFrameRes (rd : Nat → Byte) : ResRegs :=
  { len := BitVec.ofNat 16 ((rd 1).toNat + 6)
    c := rd 4
    a := rd 5
    ci := rd 6
    l := rd 1
    poff := 7#16
    plen := BitVec.ofNat 16 ((rd 1).toNat - 3)
    chk := sum8 (readBytes rd 4 (rd 1).toNat) }

/-- The checks of CHECK_ACK after the operand check (R127): exactly one byte, and it is the marker. -/
def ackError (rd : Nat → Byte) (len : Nat) : Option ErrCode :=
  if len ≠ 1 then some .notAck
  else if rd 0 ≠ ackByte then some .notAck
  else none

/-- The writes of R120's prologue. -/
def State.validatePrologue (s : State) : State := s.invalidate.setRes ResRegs.zero

/-- The shape the three commands share: the prologue, the operand check, the command's own checks, and on a pass the RES_*
registers and FKIND (R120, R121, R124, R127). -/
def validateWith (check : Option ErrCode) (res : ResRegs) (kind : FrameKind) (s : State) : Result :=
  if s.ilenTooBig then raiseError .validate .operand s.validatePrologue
  else
    match check with
    | some e => raiseError .validate e s.validatePrologue
    | none => finish ((s.validatePrologue.setRes res).setFkind kind)

/-- VALIDATE_SHORT (R121). -/
def execValidateShort (s : State) : Result :=
  validateWith (shortFrameError (s.bufByte .ibuf) s.ops.ilen.toNat) (shortFrameRes (s.bufByte .ibuf)) .short s

/-- VALIDATE_LONG (R124). -/
def execValidateLong (s : State) : Result :=
  validateWith (longFrameError (s.bufByte .ibuf) s.ops.ilen.toNat) (longFrameRes (s.bufByte .ibuf)) .long s

/-- CHECK_ACK (R127). -/
def execCheckAck (s : State) : Result :=
  validateWith (ackError (s.bufByte .ibuf) s.ops.ilen.toNat) { ResRegs.zero with len := 1#16 } .ack s

end Sys2Proof.Machine
end

