-- ==== Sys2Proof/Machine/Walk.lean ====
section
/-! DEFINITION. The record walker: WALK_START and WALK_NEXT (spec/43_record_walk.md R170 to R179), over the record formats of
spec/30_encoding.md R90 to R96. -/

namespace Sys2Proof.Machine

/-- What one look at the payload finds: a record and the offset after it, or the reason the walk ends (R176, R177). -/
inductive WalkFind where
  | record (r : RecRegs) (next : Nat)
  | ended (why : WalkReason)
deriving DecidableEq, Repr

/-- The interpretation of a record's data by data field code and whole VIF byte (R174): REC_KIND and the value registers. -/
def interpret (code : BitVec 4) (vif : Byte) (raw : Wide) (r : RecRegs) : RecRegs :=
  if code = 4#4 then
    if vif = vifDateTime then
      { r with
        kind := .datetime
        minute := rawByte raw 0
        hour := rawByte raw 1
        day := compactDay (rawByte raw 2)
        month := compactMonth (rawByte raw 3)
        year := compactYear (rawByte raw 2) (rawByte raw 3) }
    else { r with kind := .counter32, value := raw.setWidth 32 }
  else if code = 2#4 ∧ vif = vifDate then
    { r with
      kind := .date
      day := compactDay (rawByte raw 0)
      month := compactMonth (rawByte raw 1)
      year := compactYear (rawByte raw 0) (rawByte raw 1) }
  else r

/-- An extension byte (DIFE, VIFE) at offset `q`, if `present`: none when it would lie at or past the payload's end, else
the byte (0 when absent, R36) and the offset after it (R91, R92, R176). -/
def readExtension (rd : Nat → Byte) (n : Nat) (present : Bool) (q : Nat) : Option (Byte × Nat) :=
  if present then
    if q < n then some (rd q, q + 1) else none
  else some (0, q)

/-- The record registers of a record whose header bytes and data are known: `q` is the offset of its first data byte, `l`
its data byte count (R36, R37, R176). -/
def recordOf (rd : Nat → Byte) (dif dife vif vife : Byte) (q l : Nat) : RecRegs :=
  interpret (difCode dif) vif (BitVec.ofNat 64 (leValue (readBytes rd q l)))
    { RecRegs.zero with
      flags := recFlags dif vif
      dif := dif
      dife := dife
      vif := vif
      vife := vife
      storage := storageNumber dif dife
      len := BitVec.ofNat 8 l
      rawOff := BitVec.ofNat 16 q
      raw := BitVec.ofNat 64 (leValue (readBytes rd q l)) }

/-- One look at the payload (R176): `rd` reads payload bytes, `n` is the payload length, `p` the cursor. Every byte is
checked to lie below `n` before it is read (R170). -/
def walkFind (rd : Nat → Byte) (n p : Nat) : WalkFind :=
  if n ≤ p then .ended .endOfData
  else
    match dataLength (difCode (rd p)) with
    | none => .ended .reservedDfc
    | some l =>
      match readExtension rd n (difHasExt (rd p)) (p + 1) with
      | none => .ended .truncated
      | some (dife, q) =>
        if n ≤ q then .ended .truncated
        else
          match readExtension rd n (vifHasExt (rd q)) (q + 1) with
          | none => .ended .truncated
          | some (vife, d) =>
            if n < d + l then .ended .truncated
            else .record (recordOf rd (rd p) dife (rd q) vife d l) (d + l)

/-- `clear_rec()` and REC_VALID 0, which both walker commands start with (R36, R171, R176). -/
def State.clearRec (s : State) : State := (s.setRecord RecRegs.zero).setRecValid false

/-- WALK_START (R171). -/
def execWalkStart (s : State) : Result :=
  if s.status.fkind ≠ .long then raiseError .walkStart .state s.clearRec
  else
    finish ((s.clearRec.setWalk { off := s.ops.walkBase, reason := .none, index := 0 }).setWalkActive true)

/-- The writes of a WALK_NEXT that has looked at the payload (R176): emit the record, or end the walk with WALK_OFF left at
the DIF (R177). -/
def State.walkStep (s : State) : WalkFind → State
  | .record r next =>
    ((s.setRecord r).setWalk { s.walk with off := BitVec.ofNat 16 next, index := s.walk.index + 1 }).setRecValid true
  | .ended why => (s.setWalk { s.walk with reason := why }).setWalkActive false

/-- WALK_NEXT (R176): ending the walk is a success (R207). -/
def execWalkNext (s : State) : Result :=
  if s.status.walkActive = false then raiseError .walkNext .state s.clearRec
  else finish (s.clearRec.walkStep (walkFind s.payloadByte s.res.plen.toNat s.walk.off.toNat))

end Sys2Proof.Machine
end

