-- ==== Sys2Proof/Machine/Dispatch.lean ====
section
/-! DEFINITION. One arm for each command (spec/30_encoding.md R81). -/

namespace Sys2Proof.Machine

def exec (i : Instr) (s : State) : Host.Outcome State Fault Refusal :=
  match i with
  | .buildShort => Sys2Proof.Machine.execBuildShort s
  | .buildLong => Sys2Proof.Machine.execBuildLong s
  | .checksum => Sys2Proof.Machine.execChecksum s
  | .validateShort => Sys2Proof.Machine.execValidateShort s
  | .validateLong => Sys2Proof.Machine.execValidateLong s
  | .checkAck => Sys2Proof.Machine.execCheckAck s
  | .decodeHeader => Sys2Proof.Machine.execDecodeHeader s
  | .walkStart => Sys2Proof.Machine.execWalkStart s
  | .walkNext => Sys2Proof.Machine.execWalkNext s

end Sys2Proof.Machine
end

