-- ==== Sys2Proof/Machine/Access.lean ====
section
/-! DEFINITION. The events of the bus (spec/20_memory.md R68, R70): what a host access and a reset do to the block, and the
expansion of a host script's statements into accesses (spec/30_encoding.md R97). -/

namespace Sys2Proof.Machine

/-- A host write to CMD: the value is stored, then the command it encodes runs to completion, or the illegal-command
outcome if it encodes none (R25, R40, R82, R205). -/
def hostWriteCmd (s : State) (v : Wide) : Result :=
  match decode (v.setWidth 8) with
  | .ok i => exec i (s.writeReg .cmd v)
  | .error _ => illegalCommand (s.writeReg .cmd v)

/-- A host write to a register number (R24, R25): unassigned numbers ignore it. The bus carries 64 bits, and a register takes
the low ones (log entry 14). -/
def hostWriteReg (s : State) (num : Byte) (v : Wide) : Result :=
  match Reg.ofNum num with
  | none => .next s
  | some .cmd => hostWriteCmd s v
  | some r => .next (s.writeReg r v)

/-- The value of a host read, kept for the host; the block is unchanged (R68). -/
def State.answerRead (s : State) (v : Wide) : State := s.setHost { s.host with reads := v :: s.host.reads }

/-- Reset of the block (R230, R231): every register at its reset value, the buffers' contents drawn anew, the parameters
kept; CMD is not run. The host's queue is not the block's and stays (log entry 5). -/
def State.platformReset (s : State) : State :=
  { State.reset with params := s.params, epoch := s.epoch + 1, host := s.host }

/-- One event of the total order (R70). -/
def doEvent (e : BusEvent) (s : State) : Result :=
  match e with
  | .regWrite num v => hostWriteReg s num v
  | .regRead num => .next (s.answerRead (s.hostReadReg num))
  | .bufWrite b i v => .next (s.hostWriteByte b i v)
  | .bufRead b i => .next (s.answerRead ((s.bufByte b i).setWidth 64))
  | .reset => .next s.platformReset

/-- The events one after another, each seeing what those before it left (R70). -/
def runEvents : List BusEvent → State → Result
  | [], s => .next s
  | e :: es, s =>
    match doEvent e s with
    | .next t => runEvents es t
    | .fault r => .fault r
    | .refused r => .refused r

/-- `WB`: one byte write for each byte, from an index on (R97). -/
def writeBytesEvents (b : Buf) (i : Nat) : List Byte → List BusEvent
  | [] => []
  | v :: vs => .bufWrite b i v :: writeBytesEvents b (i + 1) vs

/-- `RB`: one byte read for each of `count` bytes, from an index on (R97). -/
def readBytesEvents (b : Buf) (i : Nat) : Nat → List BusEvent
  | 0 => []
  | n + 1 => .bufRead b i :: readBytesEvents b (i + 1) n

/-- The accesses a statement stands for (R97). LOOP's depend on OLEN and OBUF as they stand when it is reached
(log entry 10). -/
def State.expand (s : State) (st : HostStmt) : List BusEvent :=
  match st with
  | .cmd i => [.regWrite Reg.cmd.num ((encode i).setWidth 64)]
  | .wr r v => [.regWrite r.num (BitVec.ofNat 64 v)]
  | .wb b i bytes => writeBytesEvents b i bytes
  | .rd r => [.regRead r.num]
  | .rb b i count => readBytesEvents b i count
  | .loadi bytes => writeBytesEvents .ibuf 0 bytes ++ [.regWrite Reg.ilen.num (BitVec.ofNat 64 bytes.length)]
  | .loadp bytes => writeBytesEvents .pbuf 0 bytes ++ [.regWrite Reg.plen.num (BitVec.ofNat 64 bytes.length)]
  | .loop =>
    writeBytesEvents .ibuf 0 (readBytes (s.bufByte .obuf) 0 s.olen.toNat) ++
      [.regWrite Reg.ilen.num (s.olen.setWidth 64)]

/-- One step of the machine: the next access if one is pending; else the next statement of the script is expanded into its
accesses; else nothing happens: the block waits for the host and never steps on its own (R20, R232). -/
def stepEvent (s : State) : Result :=
  match s.host.pending with
  | e :: rest => doEvent e (s.setHost { s.host with pending := rest })
  | [] =>
    match s.host.script with
    | st :: rest => .next (s.setHost { s.host with pending := s.expand st, script := rest })
    | [] => .next s

/-- `s` with the host about to write the byte `w` to CMD, before whatever else it is about to do. -/
def State.withCommand (s : State) (w : Nat) : State :=
  s.setHost { s.host with pending := .regWrite Reg.cmd.num (BitVec.ofNat 64 w) :: s.host.pending }

end Sys2Proof.Machine
end

