-- ==== Sys2Proof/Machine/Step.lean ====
section
/-! DEFINITION. The step of the machine and the place of its next instruction. -/

namespace Sys2Proof.Machine

/-- One event of the bus (spec/20_memory.md R70); see `stepEvent`. -/
def step (s : State) : Host.Outcome State Fault Refusal := stepEvent s

/-- The block fetches nothing (spec/10_state.md R22): its next instruction is the next CMD write of the host, so the word
is put at the head of the pending accesses (log entry 13). -/
def State.withFetchWord (s : State) (_nbits w : Nat) : State := s.withCommand w

end Sys2Proof.Machine
end

