-- ==== Sys2Proof/Safety.lean ====
section
/-! DEFINITION. The terms claims are stated in: the invariant of every run, what a command's report says, the layout of the
record at the walk cursor, and sequences of commands. Nothing here is used by the machine. -/

namespace Sys2Proof.Machine

/-! ## Reports -/

/-- The report of a success (R203). -/
def State.reportsOk (t : State) : Prop := t.status.err = false ∧ t.errcode = .ok

/-- The report of an error (R202). -/
def State.reportsError (t : State) (c : ErrCode) : Prop := t.status.err = true ∧ t.errcode = c

/-- STATUS but for ERR is unchanged. -/
def State.sameFlags (s t : State) : Prop :=
  t.status.walkActive = s.status.walkActive ∧ t.status.recValid = s.status.recValid ∧ t.status.fkind = s.status.fkind

/-- Every byte of a buffer reads as before. -/
def State.sameBytes (s t : State) (b : Buf) : Prop := ∀ i, t.bufByte b i = s.bufByte b i

/-- The state a validate-family command leaves when it fails (R120, R202). -/
def State.rejected (s : State) (c : ErrCode) : State :=
  { s with
    status := { err := true, walkActive := false, recValid := false, fkind := .none }
    errcode := c
    res := ResRegs.zero }

/-- The state a validate-family command leaves when it passes (R121, R124, R127). -/
def State.accepted (s : State) (kind : FrameKind) (r : ResRegs) : State :=
  { s with
    status := { err := false, walkActive := false, recValid := false, fkind := kind }
    errcode := .ok
    res := r }

/-- The error codes a command may report (R200, the column "raised by"). -/
def raisedBy : Instr → List ErrCode
  | .buildShort => []
  | .buildLong => [.operand, .payloadTooLong]
  | .checksum => [.operand]
  | .validateShort => [.operand, .tooShort, .start, .stop, .checksum]
  | .validateLong => [.operand, .tooShort, .lenMismatch, .start, .lenField, .lenExceeds, .stop, .checksum]
  | .checkAck => [.operand, .notAck]
  | .decodeHeader => [.state, .headerShort]
  | .walkStart => [.state]
  | .walkNext => [.state]

/-! ## Sums and values, in plain arithmetic -/

/-- The exact sum of the `n` bytes a reader gives from index `i` on. -/
def totalOf (rd : Nat → Byte) (i n : Nat) : Nat := ((List.range n).map fun k => (rd (i + k)).toNat).sum

/-- The little-endian value of the `n` bytes a reader gives from index `i` on (R10, R65). -/
def valueOf (rd : Nat → Byte) (i n : Nat) : Nat := ((List.range n).map fun k => (rd (i + k)).toNat * 256 ^ k).sum

/-! ## The record at the walk cursor (R93) -/

/-- The offset of the DIF the next WALK_NEXT looks at. -/
def State.cursor (s : State) : Nat := s.walk.off.toNat

/-- The payload length the walk is bounded by (R170). -/
def State.payloadLen (s : State) : Nat := s.res.plen.toNat

/-- The DIF at the cursor. -/
def State.cursorDif (s : State) : Byte := s.payloadByte s.cursor

/-- The data field code of that DIF, its bits 3:0. -/
def State.cursorCode (s : State) : Nat := s.cursorDif.toNat % 16

/-- 1 if that DIF announces a DIFE (its bit 7), else 0. -/
def State.cursorE (s : State) : Nat := s.cursorDif.toNat / 128

/-- The VIF of the record at the cursor. -/
def State.cursorVif (s : State) : Byte := s.payloadByte (s.cursor + 1 + s.cursorE)

/-- 1 if that VIF announces a VIFE (its bit 7), else 0. -/
def State.cursorV (s : State) : Nat := s.cursorVif.toNat / 128

/-- The offset of the record's first data byte. -/
def State.cursorData (s : State) : Nat := s.cursor + 2 + s.cursorE + s.cursorV

/-- The record's data byte count, by the length table of R8. -/
def State.cursorLen (s : State) : Nat := [0, 1, 2, 3, 4, 4, 6, 8].getD s.cursorCode 0

/-- The record at the cursor has a length and fits in the payload. -/
def State.cursorFits (s : State) : Prop :=
  s.cursor < s.payloadLen ∧ s.cursorCode ≤ 7 ∧ s.cursorData + s.cursorLen ≤ s.payloadLen

/-! ## The invariant -/

/-- The RES_* registers but RES_CHK, which CHECKSUM may overwrite (R129), are those of `r`. -/
def ResRegs.agrees (q r : ResRegs) : Prop := { q with chk := 0 } = { r with chk := 0 }

/-- What STATUS.FKIND promises: the frame held in IBUF is one its validator accepts, and the RES_* registers are its fields
(R39, R129). -/
def State.heldFrameOk (s : State) : Prop :=
  match s.status.fkind with
  | .none => True
  | .ack => s.ops.ilen.toNat = 1 ∧ s.bufByte .ibuf 0 = ackByte ∧ s.res.agrees { ResRegs.zero with len := 1 }
  | .short =>
    s.ops.ilen.toNat ≤ s.params.ibufSize ∧ shortFrameError (s.bufByte .ibuf) s.ops.ilen.toNat = none ∧
      s.res.agrees (shortFrameRes (s.bufByte .ibuf))
  | .long =>
    s.ops.ilen.toNat ≤ s.params.ibufSize ∧ longFrameError (s.bufByte .ibuf) s.ops.ilen.toNat = none ∧
      s.res.agrees (longFrameRes (s.bufByte .ibuf))

/-- The invariant of every run: legal sizes, canonical buffers inside their sizes, ERR and ERRCODE agreeing, a legal OLEN,
a held frame that is what FKIND says, a walk only over a held long frame, and a record only within a walk. -/
structure State.Inv (s : State) : Prop where
  sizes : s.params.ok
  ibuf : s.ibuf.wf ∧ s.ibuf.below s.params.ibufSize
  pbuf : s.pbuf.wf ∧ s.pbuf.below s.params.pbufSize
  obuf : s.obuf.wf ∧ s.obuf.below Config.obufSize
  report : s.status.err = true ↔ s.errcode ≠ .ok
  olen : s.olen.toNat = 0 ∨ s.olen.toNat = 5 ∨ (9 ≤ s.olen.toNat ∧ s.olen.toNat ≤ 261)
  held : s.heldFrameOk
  walking : s.status.walkActive = true → s.status.fkind = .long ∧ s.walk.reason = .none
  recording : s.status.recValid = true →
    s.status.walkActive = true ∧ s.walk.off.toNat ≤ s.res.plen.toNat ∧
      s.walk.off.toNat = s.record.rawOff.toNat + s.record.len.toNat

/-! ## Sequences -/

/-- Commands one after another, with no host access between them. -/
def runCommands : List Instr → State → Result
  | [], s => .next s
  | i :: is, s =>
    match exec i s with
    | .next t => runCommands is t
    | .fault r => .fault r
    | .refused r => .refused r

/-- IBUF holds exactly these bytes from index 0 on, and ILEN counts them. -/
def State.holds (s : State) (bytes : List Byte) : Prop :=
  s.ops.ilen.toNat = bytes.length ∧ ∀ i, ∀ h : i < bytes.length, s.bufByte .ibuf i = bytes[i]

end Sys2Proof.Machine
end

