-- ==== Sys2Proof/Certificates/Slice0/Obligations.lean ====
section
/-! DEFINITION. The statements for the provers. Each says which rule of the spec it formalises. -/

open Sys2Proof Sys2Proof.Machine

/-! ## Encoding -/

/-- R81, R82: the opcode map, and no byte outside it is a command. -/
def Obligations.DecodeIsTheOpcodeMap : Prop :=
  ∀ (b : Byte) (i : Instr), decode b = .ok i ↔
    (b, i) ∈ [(0x01#8, Instr.buildShort), (0x02#8, .buildLong), (0x03#8, .checksum), (0x04#8, .validateShort),
      (0x05#8, .validateLong), (0x06#8, .checkAck), (0x07#8, .decodeHeader), (0x08#8, .walkStart), (0x09#8, .walkNext)]

/-- R80, R81: the decoder inverts the encoder on every well-formed command, and the encoder the decoder. -/
def Obligations.DecodeInvertsEncode : Prop :=
  (∀ i : Instr, i.wf = true → decode (encode i) = .ok i) ∧ (∀ b i, decode b = .ok i → encode i = b)

/-- R23: a register number names one register, and every register has its own. -/
def Obligations.RegisterNumbersAreUnique : Prop :=
  (∀ r : Reg, Reg.ofNum r.num = some r) ∧ (∀ n r, Reg.ofNum n = some r → r.num = n)

/-! ## The step, the host's accesses, reset -/

/-- R70, R97: a step performs the next access, taken off the queue; with none pending it expands the next statement of the
script into its accesses (the queue and the script are the model's own, log entry 1). Which accesses those are is said by
StatementsStandForTheirAccesses, LoadStatementsFillTheBuffers and LoopStatementCopiesTheBuild. -/
def Obligations.StepTakesTheNextEvent : Prop :=
  (∀ (s : State) (e : BusEvent) (rest : List BusEvent), s.host.pending = e :: rest →
    step s = doEvent e { s with host := { s.host with pending := rest } }) ∧
  (∀ (s : State) (st : HostStmt) (rest : List HostStmt), s.host.pending = [] → s.host.script = st :: rest →
    step s = .next { s with host := { s.host with pending := s.expand st, script := rest } })

/-- R25, R70: when the next access is a write to CMD of a byte that decodes to a command, the step stores the byte and runs
that command, the access taken off the queue (the model's own, log entry 1). -/
def Obligations.StepRunsTheWrittenCommand : Prop :=
  ∀ (s : State) (v : Wide) (rest : List BusEvent) (i : Instr),
    s.host.pending = .regWrite 0x00#8 v :: rest → decode (v.setWidth 8) = .ok i →
      step s = exec i
        { s with host := { s.host with pending := rest }, ops := { s.ops with cmd := v.setWidth 8 } }

/-- The word the host's checks put in place is the next command the step runs (log entry 13). -/
def Obligations.FetchedWordRunsNext : Prop :=
  ∀ (s : State) (w : Nat) (i : Instr), w < 256 → decodeTableWord 8 w = some i →
    step (s.withFetchWord 8 w) = exec i { s with ops := { s.ops with cmd := BitVec.ofNat 8 w } }

/-- R205: a CMD write of a value outside the opcode map reports ERR_ILLEGAL_CMD and changes nothing else (but CMD itself,
R25, and the model's queue). -/
def Obligations.IllegalCommandOnlyReports : Prop :=
  ∀ (s : State) (v : Wide), (v.setWidth 8 : Byte).toNat = 0 ∨ 10 ≤ (v.setWidth 8 : Byte).toNat →
    ∃ t, doEvent (.regWrite 0x00#8 v) s = .next t ∧ t.reportsError .illegalCmd ∧ t.errcode.code = 0x0D#8 ∧
      t = { s with
            ops := { s.ops with cmd := v.setWidth 8 }
            status := { s.status with err := true }
            errcode := .illegalCmd }

/-- R24: writes to RO and unassigned registers are ignored, unassigned numbers read 0, and an RW register reads back the value
truncated to its width, CMD too, whose values that name no command are stored and then reported as illegal. -/
def Obligations.RegisterAccessRules : Prop :=
  (∀ s n v, 6 < n.toNat → doEvent (.regWrite n v) s = .next s) ∧
  (∀ (s : State) (n : Byte),
    (6 < n.toNat ∧ n.toNat < 0x10) ∨ (0x1A < n.toNat ∧ n.toNat < 0x20) ∨ (0x27 < n.toNat ∧ n.toNat < 0x30) ∨
      0x42 < n.toNat → s.hostReadReg n = 0) ∧
  (∀ s n v, 1 ≤ n.toNat → n.toNat ≤ 3 → ∃ t, doEvent (.regWrite n v) s = .next t ∧
    (t.hostReadReg n).toNat = v.toNat % 2 ^ 8) ∧
  (∀ s n v, 4 ≤ n.toNat → n.toNat ≤ 6 → ∃ t, doEvent (.regWrite n v) s = .next t ∧
    (t.hostReadReg n).toNat = v.toNat % 2 ^ 16) ∧
  (∀ s v, ∃ t, doEvent (.regWrite 0x00#8 v) s = .next t ∧ (t.hostReadReg 0x00#8).toNat = v.toNat % 2 ^ 8 ∧
    ∀ r, decode (v.setWidth 8) = .error r → t.reportsError .illegalCmd)

/-- R235(d), R68: a host write to OP_C, OP_A, OP_CI, PLEN or WALK_BASE changes that register alone: every other register reads
as before, and no buffer, no flag and no result moves. -/
def Obligations.OperandWritesChangeNothingElse : Prop :=
  ∀ (s : State) (n : Byte) (v : Wide), 1 ≤ n.toNat → n.toNat ≤ 6 → n ≠ 0x05#8 →
    ∃ t, doEvent (.regWrite n v) s = .next t ∧ t = { s with ops := t.ops } ∧
      ∀ m, m ≠ n → t.hostReadReg m = s.hostReadReg m

/-- R39: a host write to a byte of IBUF, or to ILEN, sets FKIND to NONE, clears WALK_ACTIVE and REC_VALID, and changes no
other register; the byte, or ILEN, takes the value, and no other byte changes. -/
def Obligations.HostWriteInvalidatesTheFrame : Prop :=
  (∀ s i v, i < s.params.ibufSize →
    ∃ t, doEvent (.bufWrite .ibuf i v) s = .next t ∧
      t = { s with
            status := { s.status with fkind := .none, walkActive := false, recValid := false }
            ibuf := t.ibuf } ∧
      t.bufByte .ibuf i = v ∧ ∀ j, j ≠ i → t.bufByte .ibuf j = s.bufByte .ibuf j) ∧
  (∀ s v, doEvent (.regWrite 0x05#8 v) s =
    .next { s with
            status := { s.status with fkind := .none, walkActive := false, recValid := false }
            ops := { s.ops with ilen := v.setWidth 16 } })

/-- R62: an index at or above a buffer's size reads 0 and ignores writes with no side effect, and OBUF ignores every write.
That the value read goes to the head of `host.reads` is the model's own (log entry 8). -/
def Obligations.AccessOutsideABufferIsIgnored : Prop :=
  ∀ (s : State) (b : Buf) (i : Nat) (v : Byte),
    (s.bufSize b ≤ i →
      doEvent (.bufRead b i) s = .next { s with host := { s.host with reads := 0 :: s.host.reads } } ∧
      doEvent (.bufWrite b i v) s = .next s) ∧
    doEvent (.bufWrite .obuf i v) s = .next s

/-- R61, R70: a byte written to PBUF reads back, every other byte and register is as before, and the held frame stays valid. -/
def Obligations.PayloadWriteReadsBack : Prop :=
  ∀ s i v, i < s.params.pbufSize →
    ∃ t, doEvent (.bufWrite .pbuf i v) s = .next t ∧ t = { s with pbuf := t.pbuf } ∧
      t.bufByte .pbuf i = v ∧ ∀ j, j ≠ i → t.bufByte .pbuf j = s.bufByte .pbuf j

/-- R68: a read gives the host the register's value, or the byte, and changes nothing of the block. Where the values go is the
model's own (log entry 8). -/
def Obligations.ReadsHaveNoSideEffect : Prop :=
  (∀ s n, doEvent (.regRead n) s = .next { s with host := { s.host with reads := s.hostReadReg n :: s.host.reads } }) ∧
  (∀ s b i, ∃ w : Wide, w.toNat = (s.bufByte b i).toNat ∧
    doEvent (.bufRead b i) s = .next { s with host := { s.host with reads := w :: s.host.reads } })

/-- R23, R30: what each register number reads, row by row: the register of that row, zero-extended. STATUS has ERR in bit 0,
WALK_ACTIVE in bit 1, REC_VALID in bit 2, FKIND in bits 5:4 and 0 elsewhere; the coded registers read their numbers (ERRCODE's
are listed in ReportedCodesAreTheCommandsOwn). -/
def Obligations.RegistersReadAsTheTableSays : Prop :=
  ∀ (s : State) (rd : Byte → Nat), (∀ n, rd n = (s.hostReadReg n).toNat) →
    (rd 0x00#8 = s.ops.cmd.toNat ∧ rd 0x01#8 = s.ops.opC.toNat ∧ rd 0x02#8 = s.ops.opA.toNat ∧
      rd 0x03#8 = s.ops.opCI.toNat ∧ rd 0x04#8 = s.ops.plen.toNat ∧ rd 0x05#8 = s.ops.ilen.toNat ∧
      rd 0x06#8 = s.ops.walkBase.toNat) ∧
    ((s.hostReadReg 0x10#8).getLsbD 0 = s.status.err ∧ (s.hostReadReg 0x10#8).getLsbD 1 = s.status.walkActive ∧
      (s.hostReadReg 0x10#8).getLsbD 2 = s.status.recValid ∧ (s.hostReadReg 0x10#8).getLsbD 3 = false ∧
      (s.hostReadReg 0x10#8).extractLsb' 4 2 =
        (match s.status.fkind with | .none => 0#2 | .ack => 1#2 | .short => 2#2 | .long => 3#2) ∧
      ∀ k, 6 ≤ k → (s.hostReadReg 0x10#8).getLsbD k = false) ∧
    (rd 0x11#8 = s.errcode.code.toNat ∧ rd 0x12#8 = s.olen.toNat) ∧
    (rd 0x13#8 = s.res.len.toNat ∧ rd 0x14#8 = s.res.c.toNat ∧ rd 0x15#8 = s.res.a.toNat ∧
      rd 0x16#8 = s.res.ci.toNat ∧ rd 0x17#8 = s.res.l.toNat ∧ rd 0x18#8 = s.res.poff.toNat ∧
      rd 0x19#8 = s.res.plen.toNat ∧ rd 0x1A#8 = s.res.chk.toNat) ∧
    (rd 0x20#8 = s.hdr.secAddr.toNat ∧ rd 0x21#8 = s.hdr.manuf.toNat ∧ rd 0x22#8 = s.hdr.mtag.toNat ∧
      rd 0x23#8 = s.hdr.version.toNat ∧ rd 0x24#8 = s.hdr.medium.toNat ∧ rd 0x25#8 = s.hdr.access.toNat ∧
      rd 0x26#8 = s.hdr.status.toNat ∧ rd 0x27#8 = s.hdr.sig.toNat) ∧
    (rd 0x30#8 = s.walk.off.toNat ∧
      rd 0x31#8 = (match s.walk.reason with | .none => 0 | .endOfData => 1 | .reservedDfc => 2 | .truncated => 3) ∧
      rd 0x32#8 = s.walk.index.toNat) ∧
    (rd 0x33#8 = s.record.flags.toNat ∧ rd 0x34#8 = s.record.dif.toNat ∧ rd 0x35#8 = s.record.dife.toNat ∧
      rd 0x36#8 = s.record.vif.toNat ∧ rd 0x37#8 = s.record.vife.toNat ∧ rd 0x38#8 = s.record.storage.toNat ∧
      rd 0x39#8 = s.record.len.toNat ∧ rd 0x3A#8 = s.record.rawOff.toNat ∧ rd 0x3B#8 = s.record.raw.toNat ∧
      rd 0x3C#8 = (match s.record.kind with | .raw => 0 | .date => 1 | .datetime => 2 | .counter32 => 3) ∧
      rd 0x3D#8 = s.record.value.toNat ∧ rd 0x3E#8 = s.record.year.toNat ∧ rd 0x3F#8 = s.record.month.toNat ∧
      rd 0x40#8 = s.record.day.toNat ∧ rd 0x41#8 = s.record.hour.toNat ∧ rd 0x42#8 = s.record.minute.toNat)

/-- R231: after reset, at power-on or asserted later, every register reads 0 but WALK_BASE, which reads 12, and every byte of
a buffer is a free value. -/
def Obligations.ResetLeavesTheResetValues : Prop :=
  ∀ t, (t = State.reset ∨ ∃ s, doEvent .reset s = .next t) →
    (∀ n, t.hostReadReg n = if n = 0x06#8 then 0x000C#64 else 0) ∧
    (∀ b i, i < t.bufSize b → t.bufByte b i = Config.resetByte t.epoch b i)

/-- R230: reset runs from any state, keeps the machine's sizes and runs no command. The host's queue is the model's own and
stays (log entry 5). -/
def Obligations.ResetRunsFromAnyState : Prop :=
  ∀ s, ∃ t, doEvent .reset s = .next t ∧ t.params = s.params ∧ t.host = s.host ∧ t.reportsOk ∧ t.ops.cmd = 0

/-- R20, R232: with no access and no statement of the host to come, the block waits: a step changes nothing (log entry 2). -/
def Obligations.IdleBlockWaits : Prop :=
  ∀ s : State, s.host.pending = [] → s.host.script = [] → step s = .next s

/-- R97: the pseudo-instruction LOOP: its accesses copy OBUF[0..OLEN-1], as it stands when LOOP is reached (log entry 10), to
IBUF and then write OLEN to ILEN. That a step of its own takes the statement off the script and queues its accesses is the
model's choice, not R97's: the queue is the model's own (log entry 1). -/
def Obligations.LoopStatementCopiesTheBuild : Prop :=
  ∀ (s : State) (rest : List HostStmt), s.host.pending = [] → s.host.script = .loop :: rest →
    s.olen.toNat ≤ s.params.ibufSize →
    ∃ evs, step s = .next { s with host := { s.host with pending := evs, script := rest } } ∧
      ∃ t, runEvents evs s = .next t ∧
        (∀ i, i < s.olen.toNat → t.bufByte .ibuf i = s.bufByte .obuf i) ∧
        (∀ i, s.olen.toNat ≤ i → t.bufByte .ibuf i = s.bufByte .ibuf i) ∧
        t = { s with
              ibuf := t.ibuf
              ops := { s.ops with ilen := s.olen }
              status := { s.status with fkind := .none, walkActive := false, recValid := false } }

/-- R97: LOADI writes its bytes to IBUF from index 0 on and their count to ILEN, which invalidates the held frame (R39);
LOADP does so with PBUF and PLEN. A byte at or above the buffer's size is ignored (R62), every byte at or above the count
reads as before, and nothing else changes. The count fits the length register (log entry 12). -/
def Obligations.LoadStatementsFillTheBuffers : Prop :=
  (∀ (s : State) (bytes : List Byte), bytes.length < 2 ^ 16 →
    ∃ t, runEvents (s.expand (.loadi bytes)) s = .next t ∧ t.ops.ilen.toNat = bytes.length ∧
      (∀ i, ∀ h : i < bytes.length, i < s.params.ibufSize → t.bufByte .ibuf i = bytes[i]) ∧
      (∀ i, bytes.length ≤ i → t.bufByte .ibuf i = s.bufByte .ibuf i) ∧
      t = { s with
            ibuf := t.ibuf
            ops := { s.ops with ilen := t.ops.ilen }
            status := { s.status with fkind := .none, walkActive := false, recValid := false } }) ∧
  (∀ (s : State) (bytes : List Byte), bytes.length < 2 ^ 16 →
    ∃ t, runEvents (s.expand (.loadp bytes)) s = .next t ∧ t.ops.plen.toNat = bytes.length ∧
      (∀ i, ∀ h : i < bytes.length, i < s.params.pbufSize → t.bufByte .pbuf i = bytes[i]) ∧
      (∀ i, bytes.length ≤ i → t.bufByte .pbuf i = s.bufByte .pbuf i) ∧
      t = { s with pbuf := t.pbuf, ops := { s.ops with plen := t.ops.plen } })

/-- R97: the accesses of CMD, WR, WB, RD and RB: CMD writes the command's opcode byte to register 0x00, and so runs it; WR
writes the register's number and value; WB makes one byte write for each byte, from its index on; RD reads the register; RB
makes one byte read for each index. -/
def Obligations.StatementsStandForTheirAccesses : Prop :=
  ∀ s : State,
    (∀ i, s.expand (.cmd i) = [.regWrite 0x00#8 ((encode i).setWidth 64)] ∧
      runEvents (s.expand (.cmd i)) s = exec i { s with ops := { s.ops with cmd := encode i } }) ∧
    (∀ r v, s.expand (.wr r v) = [.regWrite r.num (BitVec.ofNat 64 v)]) ∧
    (∀ r, s.expand (.rd r) = [.regRead r.num]) ∧
    (∀ b i bytes, (s.expand (.wb b i bytes)).length = bytes.length ∧
      ∀ k, ∀ h : k < bytes.length, (s.expand (.wb b i bytes))[k]? = some (.bufWrite b (i + k) bytes[k])) ∧
    (∀ b i count, (s.expand (.rb b i count)).length = count ∧
      ∀ k, k < count → (s.expand (.rb b i count))[k]? = some (.bufRead b (i + k)))

/-- R97, R39, R62: what WB leaves: its bytes from its index on in IBUF or PBUF, as far as they lie below the size; every other
byte as before; OBUF as before; and the held frame invalid if one byte or more went into IBUF. Nothing else changes. -/
def Obligations.WriteStatementFillsTheBuffer : Prop :=
  ∀ (s : State) (b : Buf) (i : Nat) (bytes : List Byte),
    ∃ t, runEvents (s.expand (.wb b i bytes)) s = .next t ∧
      (∀ k, ∀ h : k < bytes.length, b ≠ .obuf → i + k < s.bufSize b → t.bufByte b (i + k) = bytes[k]) ∧
      (∀ j, b = .obuf ∨ j < i ∨ i + bytes.length ≤ j → t.bufByte b j = s.bufByte b j) ∧
      (b = .ibuf → t =
        { s with
          ibuf := t.ibuf
          status :=
            if bytes ≠ [] ∧ i < s.params.ibufSize then
              { s.status with fkind := .none, walkActive := false, recValid := false }
            else s.status }) ∧
      (b = .pbuf → t = { s with pbuf := t.pbuf }) ∧
      (b = .obuf → t = s)

/-- R97, R68: RD gives the host the register, and RB the bytes from its index on, one after another; the block is as before.
That the values stand in `host.reads`, the newest first, is the model's own (log entry 8). -/
def Obligations.ReadStatementsReturnTheValues : Prop :=
  ∀ s : State,
    (∀ r, runEvents (s.expand (.rd r)) s =
      .next { s with host := { s.host with reads := s.hostReadReg r.num :: s.host.reads } }) ∧
    (∀ b i count, runEvents (s.expand (.rb b i count)) s =
      .next { s with
              host := { s.host with
                        reads := ((List.range count).map fun k => (s.bufByte b (i + k)).setWidth 64).reverse ++
                          s.host.reads } })

/-! ## Frame building -/

/-- R100, R101: BUILD_SHORT from every state: the five bytes, OLEN, the report, and nothing else of STATUS. -/
def Obligations.BuildShortResult : Prop :=
  encode .buildShort = 0x01#8 ∧ ∀ s, ∃ t, exec .buildShort s = .next t ∧
    t.bufByte .obuf 0 = 0x10#8 ∧ t.bufByte .obuf 1 = s.ops.opC ∧ t.bufByte .obuf 2 = s.ops.opA ∧
    (t.bufByte .obuf 3).toNat = (s.ops.opC.toNat + s.ops.opA.toNat) % 256 ∧ t.bufByte .obuf 4 = 0x16#8 ∧
    (∀ i, 5 ≤ i → t.bufByte .obuf i = s.bufByte .obuf i) ∧
    t = { s with olen := 5, errcode := .ok, status := { s.status with err := false }, obuf := t.obuf }

/-- R102, R103: BUILD_LONG: the operand check, the payload limit, and on success the frame, its bytes at and above OLEN kept. -/
def Obligations.BuildLongResult : Prop :=
  encode .buildLong = 0x02#8 ∧ ∀ s,
    (s.params.pbufSize < s.ops.plen.toNat → exec .buildLong s =
      .next { s with olen := 0, errcode := .operand, status := { s.status with err := true } }) ∧
    (s.ops.plen.toNat ≤ s.params.pbufSize → 252 < s.ops.plen.toNat → exec .buildLong s =
      .next { s with olen := 0, errcode := .payloadTooLong, status := { s.status with err := true } }) ∧
    (s.ops.plen.toNat ≤ s.params.pbufSize → s.ops.plen.toNat ≤ 252 →
      ∃ t, exec .buildLong s = .next t ∧
        t.bufByte .obuf 0 = 0x68#8 ∧ (t.bufByte .obuf 1).toNat = s.ops.plen.toNat + 3 ∧
        (t.bufByte .obuf 2).toNat = s.ops.plen.toNat + 3 ∧ t.bufByte .obuf 3 = 0x68#8 ∧
        t.bufByte .obuf 4 = s.ops.opC ∧ t.bufByte .obuf 5 = s.ops.opA ∧ t.bufByte .obuf 6 = s.ops.opCI ∧
        (∀ i, i < s.ops.plen.toNat → t.bufByte .obuf (7 + i) = s.bufByte .pbuf i) ∧
        (t.bufByte .obuf (7 + s.ops.plen.toNat)).toNat =
          (s.ops.opC.toNat + s.ops.opA.toNat + s.ops.opCI.toNat +
            totalOf (s.bufByte .pbuf) 0 s.ops.plen.toNat) % 256 ∧
        t.bufByte .obuf (8 + s.ops.plen.toNat) = 0x16#8 ∧
        (∀ i, s.ops.plen.toNat + 9 ≤ i → t.bufByte .obuf i = s.bufByte .obuf i) ∧
        t.olen.toNat = s.ops.plen.toNat + 9 ∧
        t = { s with olen := t.olen, errcode := .ok, status := { s.status with err := false }, obuf := t.obuf })

/-- R104: CHECKSUM sums PBUF[0..PLEN-1] into RES_CHK alone, or fails the operand check and leaves RES_CHK 0. -/
def Obligations.ChecksumResult : Prop :=
  encode .checksum = 0x03#8 ∧ ∀ s,
    (s.params.pbufSize < s.ops.plen.toNat → exec .checksum s =
      .next { s with
              res := { s.res with chk := 0 }, errcode := .operand, status := { s.status with err := true } }) ∧
    (s.ops.plen.toNat ≤ s.params.pbufSize → ∃ t, exec .checksum s = .next t ∧
      t.res.chk.toNat = totalOf (s.bufByte .pbuf) 0 s.ops.plen.toNat % 256 ∧
      t = { s with
            res := { s.res with chk := t.res.chk }, errcode := .ok, status := { s.status with err := false } })

/-- R105: builds never read IBUF (any contents of it give the same build) and never write IBUF, ILEN, FKIND or the walker
state. -/
def Obligations.BuildsNeverTouchTheHeldFrame : Prop :=
  ∀ (i : Instr), i = .buildShort ∨ i = .buildLong ∨ i = .checksum → ∀ s, ∃ t, exec i s = .next t ∧
    (∀ m, exec i { s with ibuf := m } = .next { t with ibuf := m }) ∧
    t.ibuf = s.ibuf ∧ t.ops.ilen = s.ops.ilen ∧ t.status.fkind = s.status.fkind ∧
    t.status.walkActive = s.status.walkActive ∧ t.walk = s.walk

/-! ## Frame validation -/

/-- R121, R204: VALIDATE_SHORT checks in this order, reports the first that fails and leaves no result; a frame that passes
all of them is accepted with its fields. -/
def Obligations.ValidateShortChecksInOrder : Prop :=
  encode .validateShort = 0x04#8 ∧ ∀ (s : State) (len size : Nat) (rd : Nat → Byte),
    len = s.ops.ilen.toNat → size = s.params.ibufSize → rd = s.bufByte .ibuf →
    (size < len → exec .validateShort s = .next (s.rejected .operand)) ∧
    (len ≤ size → len < 5 → exec .validateShort s = .next (s.rejected .tooShort)) ∧
    (len ≤ size → 5 ≤ len → rd 0 ≠ 0x10#8 → exec .validateShort s = .next (s.rejected .start)) ∧
    (len ≤ size → 5 ≤ len → rd 0 = 0x10#8 → rd 4 ≠ 0x16#8 → exec .validateShort s = .next (s.rejected .stop)) ∧
    (len ≤ size → 5 ≤ len → rd 0 = 0x10#8 → rd 4 = 0x16#8 →
      (rd 3).toNat ≠ ((rd 1).toNat + (rd 2).toNat) % 256 →
        exec .validateShort s = .next (s.rejected .checksum)) ∧
    (len ≤ size → 5 ≤ len → rd 0 = 0x10#8 → rd 4 = 0x16#8 →
      (rd 3).toNat = ((rd 1).toNat + (rd 2).toNat) % 256 →
        exec .validateShort s = .next (s.accepted .short
          { len := 5, c := rd 1, a := rd 2, ci := 0, l := 0, poff := 0, plen := 0, chk := rd 3 }))

/-- R124, R125, R204: VALIDATE_LONG checks in this order, reports the first that fails and leaves no result; a frame that
passes all of them is accepted with its fields, consumed length L + 6. -/
def Obligations.ValidateLongChecksInOrder : Prop :=
  encode .validateLong = 0x05#8 ∧ ∀ (s : State) (len size L : Nat) (rd : Nat → Byte),
    len = s.ops.ilen.toNat → size = s.params.ibufSize → rd = s.bufByte .ibuf → L = (rd 1).toNat →
    (size < len → exec .validateLong s = .next (s.rejected .operand)) ∧
    (len ≤ size → len < 9 → exec .validateLong s = .next (s.rejected .tooShort)) ∧
    (len ≤ size → 9 ≤ len → rd 1 ≠ rd 2 → exec .validateLong s = .next (s.rejected .lenMismatch)) ∧
    (len ≤ size → 9 ≤ len → rd 1 = rd 2 → rd 0 ≠ 0x68#8 ∨ rd 3 ≠ 0x68#8 →
      exec .validateLong s = .next (s.rejected .start)) ∧
    (len ≤ size → 9 ≤ len → rd 1 = rd 2 → rd 0 = 0x68#8 → rd 3 = 0x68#8 → L < 3 →
      exec .validateLong s = .next (s.rejected .lenField)) ∧
    (len ≤ size → 9 ≤ len → rd 1 = rd 2 → rd 0 = 0x68#8 → rd 3 = 0x68#8 → 3 ≤ L → len < L + 6 →
      exec .validateLong s = .next (s.rejected .lenExceeds)) ∧
    (len ≤ size → 9 ≤ len → rd 1 = rd 2 → rd 0 = 0x68#8 → rd 3 = 0x68#8 → 3 ≤ L → L + 6 ≤ len →
      rd (L + 5) ≠ 0x16#8 → exec .validateLong s = .next (s.rejected .stop)) ∧
    (len ≤ size → 9 ≤ len → rd 1 = rd 2 → rd 0 = 0x68#8 → rd 3 = 0x68#8 → 3 ≤ L → L + 6 ≤ len →
      rd (L + 5) = 0x16#8 → (rd (L + 4)).toNat ≠ totalOf rd 4 L % 256 →
        exec .validateLong s = .next (s.rejected .checksum)) ∧
    (len ≤ size → 9 ≤ len → rd 1 = rd 2 → rd 0 = 0x68#8 → rd 3 = 0x68#8 → 3 ≤ L → L + 6 ≤ len →
      rd (L + 5) = 0x16#8 → (rd (L + 4)).toNat = totalOf rd 4 L % 256 →
        exec .validateLong s = .next (s.accepted .long
          { len := BitVec.ofNat 16 (L + 6), c := rd 4, a := rd 5, ci := rd 6, l := rd 1, poff := 7
            plen := BitVec.ofNat 16 (L - 3), chk := rd (L + 4) }))

/-- R127: CHECK_ACK passes exactly when IBUF holds the one byte E5. -/
def Obligations.CheckAckWantsExactlyTheMarker : Prop :=
  encode .checkAck = 0x06#8 ∧ ∀ s : State,
    (s.params.ibufSize < s.ops.ilen.toNat → exec .checkAck s = .next (s.rejected .operand)) ∧
    (s.ops.ilen.toNat ≤ s.params.ibufSize → s.ops.ilen.toNat ≠ 1 → exec .checkAck s = .next (s.rejected .notAck)) ∧
    (s.ops.ilen.toNat ≤ s.params.ibufSize → s.ops.ilen.toNat = 1 → s.bufByte .ibuf 0 ≠ 0xE5#8 →
      exec .checkAck s = .next (s.rejected .notAck)) ∧
    (s.ops.ilen.toNat ≤ s.params.ibufSize → s.ops.ilen.toNat = 1 → s.bufByte .ibuf 0 = 0xE5#8 →
      exec .checkAck s = .next (s.accepted .ack
        { len := 1, c := 0, a := 0, ci := 0, l := 0, poff := 0, plen := 0, chk := 0 }))

/-- R120: each validate-family command fails with ERR_OPERAND when ILEN is above IBUF_SIZE; after any failed validation no
frame is valid, no walk is active and every RES_* register is 0; failed or not, the REC_* registers keep their values and
REC_VALID is 0. -/
def Obligations.FailedValidationLeavesNothing : Prop :=
  ∀ (i : Instr), i = .validateShort ∨ i = .validateLong ∨ i = .checkAck → ∀ s, ∃ t, exec i s = .next t ∧
    (s.params.ibufSize < s.ops.ilen.toNat → t.reportsError .operand) ∧ t.record = s.record ∧ t.status.recValid = false ∧ t.status.walkActive = false ∧
    (t.errcode ≠ .ok → t.status.fkind = .none ∧ t.status.err = true ∧
      t.res = { len := 0, c := 0, a := 0, ci := 0, l := 0, poff := 0, plen := 0, chk := 0 })

/-- R128: an empty buffer fails every validate-family command. -/
def Obligations.EmptyBufferFailsValidation : Prop :=
  ∀ s : State, s.ops.ilen = 0 →
    exec .validateShort s = .next (s.rejected .tooShort) ∧ exec .validateLong s = .next (s.rejected .tooShort) ∧
    exec .checkAck s = .next (s.rejected .notAck)

/-- R122, R125: a frame the validators accept is accepted with the same fields whatever follows it in IBUF and however many
bytes follow: the consumed length is 5, or L + 6, and bytes past it are not read. -/
def Obligations.TrailingBytesAreNotRead : Prop :=
  ∀ (s s' : State), s'.ops.ilen.toNat ≤ s'.params.ibufSize →
    (∀ t, exec .validateShort s = .next t → t.errcode = .ok → t.res.len.toNat = 5 ∧
      (5 ≤ s'.ops.ilen.toNat → (∀ i, i < 5 → s'.bufByte .ibuf i = s.bufByte .ibuf i) →
        exec .validateShort s' = .next (s'.accepted .short t.res))) ∧
    (∀ t, exec .validateLong s = .next t → t.errcode = .ok → t.res.len.toNat = t.res.l.toNat + 6 ∧
      (t.res.l.toNat + 6 ≤ s'.ops.ilen.toNat →
        (∀ i, i < t.res.l.toNat + 6 → s'.bufByte .ibuf i = s.bufByte .ibuf i) →
        exec .validateLong s' = .next (s'.accepted .long t.res)))

/-- R129: a command outside the validate family changes neither FKIND nor the RES_* registers, but for RES_CHK by CHECKSUM;
an illegal command does not either, nor does any other access than a write to IBUF or ILEN (reset, which ends everything,
apart). -/
def Obligations.HeldFrameOutlivesOtherCommands : Prop :=
  (∀ (i : Instr), i ≠ .validateShort → i ≠ .validateLong → i ≠ .checkAck → ∀ s, ∃ t, exec i s = .next t ∧
    t.status.fkind = s.status.fkind ∧ t.ibuf = s.ibuf ∧
    t.res = { s.res with chk := if i = .checksum then t.res.chk else s.res.chk }) ∧
  (∀ (s : State) (v : Wide) (r : DecodeReject), decode (v.setWidth 8) = .error r →
    ∃ t, doEvent (.regWrite 0x00#8 v) s = .next t ∧ t.status.fkind = s.status.fkind ∧ t.res = s.res) ∧
  (∀ (s t : State) (e : BusEvent), (∀ i v, e ≠ .bufWrite .ibuf i v) → (∀ v, e ≠ .regWrite 0x05#8 v) →
    (∀ v, e ≠ .regWrite 0x00#8 v) → e ≠ .reset → doEvent e s = .next t →
      t.status.fkind = s.status.fkind ∧ t.res = s.res)

/-- R126, first part: a short frame built and looped back validates with its operands, for every C and A and in every state
whose IBUF is large enough (R7). -/
def Obligations.ShortFrameRoundTrip : Prop :=
  ∀ s : State, s.params.ok →
    ∃ b l t, exec .buildShort s = .next b ∧ runEvents (b.expand .loop) b = .next l ∧ l.ops.ilen = 5 ∧
      exec .validateShort l = .next t ∧ t.reportsOk ∧ t.status.fkind = .short ∧ t.res.len = 5 ∧
      t.res.c = s.ops.opC ∧ t.res.a = s.ops.opA

/-- R126, second part: a long frame built with any operands and any payload of at most 252 bytes, looped back, validates
with the same C, A, CI and payload. -/
def Obligations.LongFrameRoundTrip : Prop :=
  ∀ s : State, s.params.ok → s.ops.plen.toNat ≤ 252 →
    ∃ b l t, exec .buildLong s = .next b ∧ runEvents (b.expand .loop) b = .next l ∧ l.ops.ilen = b.olen ∧
      exec .validateLong l = .next t ∧ t.reportsOk ∧ t.status.fkind = .long ∧
      t.res.c = s.ops.opC ∧ t.res.a = s.ops.opA ∧ t.res.ci = s.ops.opCI ∧ t.res.plen = s.ops.plen ∧
      ∀ p, p < s.ops.plen.toNat → t.payloadByte p = s.bufByte .pbuf p

/-- R126, third part: a short frame with its START, CHK or STOP byte changed to any other value fails with ERR_START,
ERR_CHECKSUM or ERR_STOP. -/
def Obligations.CorruptedShortFrameIsRejected : Prop :=
  ∀ (s : State) (c a x : Byte), s.params.ok →
    (x ≠ 0x10#8 → s.holds ((shortFrame c a).set 0 x) → exec .validateShort s = .next (s.rejected .start)) ∧
    (x ≠ c + a → s.holds ((shortFrame c a).set 3 x) → exec .validateShort s = .next (s.rejected .checksum)) ∧
    (x ≠ 0x16#8 → s.holds ((shortFrame c a).set 4 x) → exec .validateShort s = .next (s.rejected .stop))

/-- R126, third part, for long frames: either START byte, the CHK byte and the STOP byte. -/
def Obligations.CorruptedLongFrameIsRejected : Prop :=
  ∀ (s : State) (c a ci x : Byte) (payload : List Byte), s.params.ok → payload.length ≤ 252 →
    (x ≠ 0x68#8 → s.holds ((longFrame c a ci payload).set 0 x) →
      exec .validateLong s = .next (s.rejected .start)) ∧
    (x ≠ 0x68#8 → s.holds ((longFrame c a ci payload).set 3 x) →
      exec .validateLong s = .next (s.rejected .start)) ∧
    (some x ≠ (longFrame c a ci payload)[payload.length + 7]? →
      s.holds ((longFrame c a ci payload).set (payload.length + 7) x) →
      exec .validateLong s = .next (s.rejected .checksum)) ∧
    (x ≠ 0x16#8 → s.holds ((longFrame c a ci payload).set (payload.length + 8) x) →
      exec .validateLong s = .next (s.rejected .stop))

/-! ## Header decode -/

/-- R152, R153: DECODE_HEADER needs a held long frame of at least 12 payload bytes; then it fills the HDR_* registers from
the payload, the letters from bits 14:10, 9:5 and 4:0 of the code, and changes nothing else but the report. The fields
status and signature lie where R151 puts them from general knowledge (log entry 9). -/
def Obligations.DecodeHeaderResult : Prop :=
  encode .decodeHeader = 0x07#8 ∧ ∀ s : State,
    (s.status.fkind ≠ .long → exec .decodeHeader s =
      .next { s with hdr := HdrRegs.zero, errcode := .state, status := { s.status with err := true } }) ∧
    (s.status.fkind = .long → s.res.plen.toNat < 12 → exec .decodeHeader s =
      .next { s with hdr := HdrRegs.zero, errcode := .headerShort, status := { s.status with err := true } }) ∧
    (s.status.fkind = .long → 12 ≤ s.res.plen.toNat → ∃ t, exec .decodeHeader s = .next t ∧
      t.hdr.secAddr.toNat = valueOf (s.bufByte .ibuf) 7 4 ∧
      t.hdr.manuf.toNat = valueOf (s.bufByte .ibuf) 11 2 ∧
      t.hdr.mtag.toNat = (64 + t.hdr.manuf.toNat / 1024 % 32) * 65536 + (64 + t.hdr.manuf.toNat / 32 % 32) * 256 +
        (64 + t.hdr.manuf.toNat % 32) ∧
      t.hdr.version = s.bufByte .ibuf 13 ∧ t.hdr.medium = s.bufByte .ibuf 14 ∧ t.hdr.access = s.bufByte .ibuf 15 ∧
      t.hdr.status = s.bufByte .ibuf 16 ∧ t.hdr.sig.toNat = valueOf (s.bufByte .ibuf) 17 2 ∧
      t = { s with hdr := t.hdr, errcode := .ok, status := { s.status with err := false } })

/-- R154: DECODE_HEADER gives the same result each time, does not move the cursor, and WALK_START does not need it. -/
def Obligations.DecodeHeaderRepeats : Prop :=
  ∀ s : State, ∃ t, exec .decodeHeader s = .next t ∧ exec .decodeHeader t = .next t ∧ t.walk = s.walk ∧
    ∀ u, exec .walkStart s = .next u → exec .walkStart t = .next { u with hdr := t.hdr }

/-! ## The record walker -/

/-- R171: WALK_START needs a held long frame; then it puts the cursor at WALK_BASE, whatever walk was active. -/
def Obligations.WalkStartResult : Prop :=
  encode .walkStart = 0x08#8 ∧ ∀ s : State,
    (s.status.fkind ≠ .long → exec .walkStart s =
      .next { s with
              record := RecRegs.zero, errcode := .state
              status := { s.status with err := true, walkActive := false, recValid := false } }) ∧
    (s.status.fkind = .long → exec .walkStart s =
      .next { s with
              record := RecRegs.zero, errcode := .ok, walk := { off := s.ops.walkBase, reason := .none, index := 0 }
              status := { s.status with err := false, walkActive := true, recValid := false } })

/-- R176, R93, R172, R173: a WALK_NEXT whose record fits in the payload emits it: its header bytes, flags, storage number,
length, place and raw bytes, the cursor after it, the count one more, and nothing else. -/
def Obligations.WalkNextEmitsTheRecord : Prop :=
  encode .walkNext = 0x09#8 ∧ ∀ s : State, s.status.walkActive = true → s.cursorFits →
    ∃ t, exec .walkNext s = .next t ∧
      t.record.dif = s.cursorDif ∧ t.record.vif = s.cursorVif ∧
      t.record.dife = (if s.cursorE = 1 then s.payloadByte (s.cursor + 1) else 0) ∧
      t.record.vife = (if s.cursorV = 1 then s.payloadByte (s.cursor + 2 + s.cursorE) else 0) ∧
      t.record.flags.toNat = s.cursorCode + 16 * s.cursorE + 32 * s.cursorV ∧
      t.record.storage.toNat = s.cursorDif.toNat / 64 % 2 + 2 * (t.record.dife.toNat % 16) ∧
      t.record.len.toNat = s.cursorLen ∧ t.record.rawOff.toNat = s.cursorData ∧
      t.record.raw.toNat = valueOf s.payloadByte s.cursorData s.cursorLen ∧
      t.walk.off.toNat = s.cursorData + s.cursorLen ∧
      t = { s with
            record := t.record, errcode := .ok
            walk := { s.walk with off := t.walk.off, index := s.walk.index + 1 }
            status := { s.status with err := false, recValid := true } }

/-- R174, R94, R95: the kind and the value registers of an emitted record, by data field code and whole VIF byte; the value
registers its kind does not use are 0; and the kinds' numbers. -/
def Obligations.WalkNextInterpretsTheRecord : Prop :=
  [RecKind.raw, .date, .datetime, .counter32].map RecKind.code = [0#8, 1#8, 2#8, 3#8] ∧ ∀ (s t : State) (b : Nat → Nat), s.status.walkActive = true → s.cursorFits → exec .walkNext s = .next t →
    (∀ k, b k = (s.payloadByte (s.cursorData + k)).toNat) →
    (s.cursorCode = 4 → s.cursorVif = 0x6D#8 →
      t.record.kind = .datetime ∧ t.record.value = 0 ∧ t.record.minute.toNat = b 0 ∧ t.record.hour.toNat = b 1 ∧
      t.record.day.toNat = b 2 &&& 0x1F ∧ t.record.month.toNat = b 3 &&& 0x0F ∧
      t.record.year.toNat = 2000 + ((b 2 >>> 5) ||| ((b 3 &&& 0xF0) >>> 1))) ∧
    (s.cursorCode = 4 → s.cursorVif ≠ 0x6D#8 →
      t.record.kind = .counter32 ∧ t.record.value.toNat = b 0 + 256 * b 1 + 65536 * b 2 + 16777216 * b 3 ∧
      t.record.year = 0 ∧ t.record.month = 0 ∧ t.record.day = 0 ∧ t.record.hour = 0 ∧ t.record.minute = 0) ∧
    (s.cursorCode = 2 → s.cursorVif = 0x6C#8 →
      t.record.kind = .date ∧ t.record.value = 0 ∧ t.record.hour = 0 ∧ t.record.minute = 0 ∧
      t.record.day.toNat = b 0 &&& 0x1F ∧ t.record.month.toNat = b 1 &&& 0x0F ∧
      t.record.year.toNat = 2000 + ((b 0 >>> 5) ||| ((b 1 &&& 0xF0) >>> 1))) ∧
    (s.cursorCode ≠ 4 → ¬(s.cursorCode = 2 ∧ s.cursorVif = 0x6C#8) →
      t.record.kind = .raw ∧ t.record.value = 0 ∧ t.record.year = 0 ∧ t.record.month = 0 ∧ t.record.day = 0 ∧
      t.record.hour = 0 ∧ t.record.minute = 0)

/-- R176, R177, R207: a WALK_NEXT that finds no record ends the walk without an error, the cursor left at the DIF:
END_OF_DATA (1) at or past the payload's end, RESERVED_DFC (2) for a code above 7, TRUNCATED (3) for a record that does not
fit. -/
def Obligations.WalkNextEndsTheWalk : Prop :=
  [WalkReason.endOfData, .reservedDfc, .truncated].map WalkReason.code = [1#8, 2#8, 3#8] ∧ ∀ (s : State) (why : WalkReason), s.status.walkActive = true →
    (s.payloadLen ≤ s.cursor ∧ why = .endOfData) ∨
    (s.cursor < s.payloadLen ∧ 7 < s.cursorCode ∧ why = .reservedDfc) ∨
    (s.cursor < s.payloadLen ∧ s.cursorCode ≤ 7 ∧ s.payloadLen < s.cursorData + s.cursorLen ∧ why = .truncated) →
    exec .walkNext s =
      .next { s with
              record := RecRegs.zero, errcode := .ok, walk := { s.walk with reason := why }
              status := { s.status with err := false, recValid := false, walkActive := false } }

/-- R176: WALK_NEXT without an active walk reports ERR_STATE and clears the REC_* registers; the walk's cursor, reason and
count stay (C8). -/
def Obligations.WalkNextNeedsAWalk : Prop :=
  ∀ s : State, s.status.walkActive = false → exec .walkNext s =
    .next { s with
            record := RecRegs.zero, errcode := .state
            status := { s.status with err := true, recValid := false } }

/-- R179: a data field code of 15 at the first record ends the walk at once with no record, having read only that byte: any
IBUF with the same byte there gives the same answer. -/
def Obligations.ReservedFirstRecordYieldsNothing : Prop :=
  ∀ s : State, s.status.fkind = .long → s.ops.walkBase.toNat < s.res.plen.toNat →
    (s.payloadByte s.ops.walkBase.toNat).toNat % 16 = 15 →
    ∃ t, runCommands [.walkStart, .walkNext] s = .next t ∧ t.walk.index = 0 ∧ t.walk.reason = .reservedDfc ∧
      t.status.recValid = false ∧ t.status.walkActive = false ∧ t.reportsOk ∧
      ∀ m, ({ s with ibuf := m } : State).payloadByte s.ops.walkBase.toNat = s.payloadByte s.ops.walkBase.toNat →
        runCommands [.walkStart, .walkNext] { s with ibuf := m } = .next { t with ibuf := m }

/-- R170: a walk reads only payload bytes below RES_PLEN: two IBUFs that agree on them give the same WALK_NEXT, in every
state. -/
def Obligations.WalkReadsOnlyThePayload : Prop :=
  ∀ (s : State) (m : Memory),
    (∀ p, p < s.res.plen.toNat → ({ s with ibuf := m } : State).payloadByte p = s.payloadByte p) →
    ∃ t, exec .walkNext s = .next t ∧ exec .walkNext { s with ibuf := m } = .next { t with ibuf := m }

/-- R178, R237: a walk emits at most floor((n - WALK_BASE) / 2) records (none when WALK_BASE >= n), and one more WALK_NEXT
than that ends it, whatever the payload holds. -/
def Obligations.EveryWalkEnds : Prop :=
  ∀ (s : State) (k : Nat), s.status.fkind = .long →
    ∃ t, runCommands (.walkStart :: List.replicate k .walkNext) s = .next t ∧
      t.walk.index.toNat ≤ (s.res.plen.toNat - s.ops.walkBase.toNat) / 2 ∧
      ((s.res.plen.toNat - s.ops.walkBase.toNat) / 2 + 1 ≤ k → t.status.walkActive = false)

/-- R171, R178: a walk is restartable: after any number of WALK_NEXTs of an earlier walk, a new WALK_START and `k` WALK_NEXTs
leave exactly the state a first walk of the frame leaves. -/
def Obligations.WalkIsRestartable : Prop :=
  ∀ (s : State) (j k : Nat), s.status.fkind = .long →
    runCommands (.walkStart :: (List.replicate j .walkNext ++ .walkStart :: List.replicate k .walkNext)) s =
      runCommands (.walkStart :: List.replicate k .walkNext) s

/-! ## Errors, frames, invariants -/

/-- R202: a failing command sets ERR and ERRCODE, zeroes the result registers of its family, and changes nothing else. -/
def Obligations.ErrorClearsOnlyItsFamily : Prop :=
  ∀ (i : Instr) (s t : State), exec i s = .next t → t.errcode ≠ .ok →
    t = match i with
      | .buildShort | .buildLong =>
        { s with status := { s.status with err := true }, errcode := t.errcode, olen := 0 }
      | .checksum =>
        { s with status := { s.status with err := true }, errcode := t.errcode, res := { s.res with chk := 0 } }
      | .validateShort | .validateLong | .checkAck => s.rejected t.errcode
      | .decodeHeader =>
        { s with status := { s.status with err := true }, errcode := t.errcode, hdr := HdrRegs.zero }
      | .walkStart =>
        { s with
          status := { s.status with err := true, recValid := false, walkActive := false }
          errcode := t.errcode, record := RecRegs.zero }
      | .walkNext =>
        { s with
          status := { s.status with err := true, recValid := false }, errcode := t.errcode, record := RecRegs.zero }

/-- R200, R203: a command reports OK with ERR 0, or one of the codes its row allows with ERR 1; the codes' numbers. -/
def Obligations.ReportedCodesAreTheCommandsOwn : Prop :=
  (∀ (i : Instr) (s : State), ∃ t, exec i s = .next t ∧
    (t.reportsOk ∨ (t.status.err = true ∧ t.errcode ∈ raisedBy i))) ∧
  ([ErrCode.ok, .tooShort, .start, .stop, .checksum, .lenMismatch, .lenExceeds, .lenField, .notAck, .payloadTooLong,
    .operand, .state, .headerShort, .illegalCmd].map ErrCode.code) =
    [0x00#8, 0x01#8, 0x02#8, 0x03#8, 0x04#8, 0x05#8, 0x06#8, 0x07#8, 0x08#8, 0x09#8, 0x0A#8, 0x0B#8, 0x0C#8, 0x0D#8]

/-- R206: an error is not sticky: whatever the last command reported, the next command does the same. -/
def Obligations.ErrorsAreNotSticky : Prop :=
  ∀ (i : Instr) (s : State) (e : Bool) (c : ErrCode),
    exec i { s with errcode := c, status := { s.status with err := e } } = exec i s

/-- R201: the operand checks come before any byte is read: a command that reads ILEN (PLEN) reports ERR_OPERAND when it is
above IBUF_SIZE (PBUF_SIZE), and no command reports it otherwise. -/
def Obligations.OperandChecksComeFirst : Prop :=
  ∀ (i : Instr) (s : State), ∃ t, exec i s = .next t ∧ (t.errcode = .operand ↔
    ((i = .validateShort ∨ i = .validateLong ∨ i = .checkAck) ∧ s.params.ibufSize < s.ops.ilen.toNat) ∨
    ((i = .buildLong ∨ i = .checksum) ∧ s.params.pbufSize < s.ops.plen.toNat))

/-- R26 to R29, R38: no command writes an operand register, a byte of IBUF or PBUF, a parameter, or the model's own fields;
and only the builds change a byte of OBUF. -/
def Obligations.CommandsKeepTheirOperands : Prop :=
  ∀ (i : Instr) (s : State), ∃ t, exec i s = .next t ∧ t.ops = s.ops ∧ t.params = s.params ∧ t.epoch = s.epoch ∧
    t.host = s.host ∧ s.sameBytes t .ibuf ∧ s.sameBytes t .pbuf ∧
    (i ≠ .buildShort → i ≠ .buildLong → s.sameBytes t .obuf ∧ t.olen = s.olen)

/-- R32 to R36: each group of result registers is written by its own family alone. -/
def Obligations.ResultsBelongToTheirFamily : Prop :=
  ∀ (i : Instr) (s t : State), exec i s = .next t →
    (i ≠ .decodeHeader → t.hdr = s.hdr) ∧
    (i ≠ .walkStart → i ≠ .walkNext → t.record = s.record ∧ t.walk = s.walk) ∧
    (i ≠ .validateShort → i ≠ .validateLong → i ≠ .checkAck → i ≠ .checksum → t.res = s.res) ∧
    (i = .buildShort ∨ i = .buildLong ∨ i = .checksum ∨ i = .decodeHeader → s.sameFlags t)

/-- R63: no command reads IBUF at or above ILEN, nor PBUF at or above PLEN: in every state of a run, contents that agree
below the length registers give the same command. -/
def Obligations.CommandsReadOnlyGivenBytes : Prop :=
  ∀ (i : Instr) (s : State) (m : Memory), s.Inv →
    ((∀ k, k < s.ops.ilen.toNat → ({ s with ibuf := m } : State).bufByte .ibuf k = s.bufByte .ibuf k) →
      ∃ t, exec i s = .next t ∧ exec i { s with ibuf := m } = .next { t with ibuf := m }) ∧
    ((∀ k, k < s.ops.plen.toNat → ({ s with pbuf := m } : State).bufByte .pbuf k = s.bufByte .pbuf k) →
      ∃ t, exec i s = .next t ∧ exec i { s with pbuf := m } = .next { t with pbuf := m })

/-- R40, R237: every command ends, and so does every step: no state stops the machine. -/
def Obligations.EveryStepAnswers : Prop :=
  (∀ (i : Instr) (s : State), ∃ t, exec i s = .next t) ∧ (∀ s : State, ∃ t, step s = .next t)

/-- The state after reset meets the invariant. -/
def Obligations.ResetMeetsTheInvariant : Prop := State.reset.Inv

/-- R39, R129, R200, R30: the invariant is kept by every step, whatever the host does next: the buffers stay canonical and
inside their sizes, ERR and ERRCODE agree, a frame FKIND calls valid is one its validator accepts, and a walk is active only
over a held long frame. -/
def Obligations.StepKeepsTheInvariant : Prop :=
  ∀ s t : State, s.Inv → step s = .next t → t.Inv

/-- R7: the sizes of the machine never change. -/
def Obligations.SizesNeverChange : Prop :=
  ∀ s t : State, step s = .next t → t.params = s.params
end

