-- ==== Sys2Proof/Laws/State.lean ====
section
/-! SUPPORT. One lemma for each field of State and each named update of Sys2Proof/Machine/Flags.lean (and the two shared
prologues): what the update leaves there. A proof reads a state through these and need not unfold an update. -/

namespace Sys2Proof.Machine

section
variable (s : State)

/-! `report` -/

@[simp] theorem State.report_params (failed : Bool) (code : ErrCode) : (s.report failed code).params = s.params := rfl
@[simp] theorem State.report_epoch (failed : Bool) (code : ErrCode) : (s.report failed code).epoch = s.epoch := rfl
@[simp] theorem State.report_ops (failed : Bool) (code : ErrCode) : (s.report failed code).ops = s.ops := rfl
@[simp] theorem State.report_status (failed : Bool) (code : ErrCode) : (s.report failed code).status = { s.status with err := failed } := rfl
@[simp] theorem State.report_errcode (failed : Bool) (code : ErrCode) : (s.report failed code).errcode = code := rfl
@[simp] theorem State.report_olen (failed : Bool) (code : ErrCode) : (s.report failed code).olen = s.olen := rfl
@[simp] theorem State.report_res (failed : Bool) (code : ErrCode) : (s.report failed code).res = s.res := rfl
@[simp] theorem State.report_hdr (failed : Bool) (code : ErrCode) : (s.report failed code).hdr = s.hdr := rfl
@[simp] theorem State.report_walk (failed : Bool) (code : ErrCode) : (s.report failed code).walk = s.walk := rfl
@[simp] theorem State.report_record (failed : Bool) (code : ErrCode) : (s.report failed code).record = s.record := rfl
@[simp] theorem State.report_ibuf (failed : Bool) (code : ErrCode) : (s.report failed code).ibuf = s.ibuf := rfl
@[simp] theorem State.report_pbuf (failed : Bool) (code : ErrCode) : (s.report failed code).pbuf = s.pbuf := rfl
@[simp] theorem State.report_obuf (failed : Bool) (code : ErrCode) : (s.report failed code).obuf = s.obuf := rfl
@[simp] theorem State.report_host (failed : Bool) (code : ErrCode) : (s.report failed code).host = s.host := rfl

/-! `setFkind` -/

@[simp] theorem State.setFkind_params (k : FrameKind) : (s.setFkind k).params = s.params := rfl
@[simp] theorem State.setFkind_epoch (k : FrameKind) : (s.setFkind k).epoch = s.epoch := rfl
@[simp] theorem State.setFkind_ops (k : FrameKind) : (s.setFkind k).ops = s.ops := rfl
@[simp] theorem State.setFkind_status (k : FrameKind) : (s.setFkind k).status = { s.status with fkind := k } := rfl
@[simp] theorem State.setFkind_errcode (k : FrameKind) : (s.setFkind k).errcode = s.errcode := rfl
@[simp] theorem State.setFkind_olen (k : FrameKind) : (s.setFkind k).olen = s.olen := rfl
@[simp] theorem State.setFkind_res (k : FrameKind) : (s.setFkind k).res = s.res := rfl
@[simp] theorem State.setFkind_hdr (k : FrameKind) : (s.setFkind k).hdr = s.hdr := rfl
@[simp] theorem State.setFkind_walk (k : FrameKind) : (s.setFkind k).walk = s.walk := rfl
@[simp] theorem State.setFkind_record (k : FrameKind) : (s.setFkind k).record = s.record := rfl
@[simp] theorem State.setFkind_ibuf (k : FrameKind) : (s.setFkind k).ibuf = s.ibuf := rfl
@[simp] theorem State.setFkind_pbuf (k : FrameKind) : (s.setFkind k).pbuf = s.pbuf := rfl
@[simp] theorem State.setFkind_obuf (k : FrameKind) : (s.setFkind k).obuf = s.obuf := rfl
@[simp] theorem State.setFkind_host (k : FrameKind) : (s.setFkind k).host = s.host := rfl

/-! `setWalkActive` -/

@[simp] theorem State.setWalkActive_params (b : Bool) : (s.setWalkActive b).params = s.params := rfl
@[simp] theorem State.setWalkActive_epoch (b : Bool) : (s.setWalkActive b).epoch = s.epoch := rfl
@[simp] theorem State.setWalkActive_ops (b : Bool) : (s.setWalkActive b).ops = s.ops := rfl
@[simp] theorem State.setWalkActive_status (b : Bool) : (s.setWalkActive b).status = { s.status with walkActive := b } := rfl
@[simp] theorem State.setWalkActive_errcode (b : Bool) : (s.setWalkActive b).errcode = s.errcode := rfl
@[simp] theorem State.setWalkActive_olen (b : Bool) : (s.setWalkActive b).olen = s.olen := rfl
@[simp] theorem State.setWalkActive_res (b : Bool) : (s.setWalkActive b).res = s.res := rfl
@[simp] theorem State.setWalkActive_hdr (b : Bool) : (s.setWalkActive b).hdr = s.hdr := rfl
@[simp] theorem State.setWalkActive_walk (b : Bool) : (s.setWalkActive b).walk = s.walk := rfl
@[simp] theorem State.setWalkActive_record (b : Bool) : (s.setWalkActive b).record = s.record := rfl
@[simp] theorem State.setWalkActive_ibuf (b : Bool) : (s.setWalkActive b).ibuf = s.ibuf := rfl
@[simp] theorem State.setWalkActive_pbuf (b : Bool) : (s.setWalkActive b).pbuf = s.pbuf := rfl
@[simp] theorem State.setWalkActive_obuf (b : Bool) : (s.setWalkActive b).obuf = s.obuf := rfl
@[simp] theorem State.setWalkActive_host (b : Bool) : (s.setWalkActive b).host = s.host := rfl

/-! `setRecValid` -/

@[simp] theorem State.setRecValid_params (b : Bool) : (s.setRecValid b).params = s.params := rfl
@[simp] theorem State.setRecValid_epoch (b : Bool) : (s.setRecValid b).epoch = s.epoch := rfl
@[simp] theorem State.setRecValid_ops (b : Bool) : (s.setRecValid b).ops = s.ops := rfl
@[simp] theorem State.setRecValid_status (b : Bool) : (s.setRecValid b).status = { s.status with recValid := b } := rfl
@[simp] theorem State.setRecValid_errcode (b : Bool) : (s.setRecValid b).errcode = s.errcode := rfl
@[simp] theorem State.setRecValid_olen (b : Bool) : (s.setRecValid b).olen = s.olen := rfl
@[simp] theorem State.setRecValid_res (b : Bool) : (s.setRecValid b).res = s.res := rfl
@[simp] theorem State.setRecValid_hdr (b : Bool) : (s.setRecValid b).hdr = s.hdr := rfl
@[simp] theorem State.setRecValid_walk (b : Bool) : (s.setRecValid b).walk = s.walk := rfl
@[simp] theorem State.setRecValid_record (b : Bool) : (s.setRecValid b).record = s.record := rfl
@[simp] theorem State.setRecValid_ibuf (b : Bool) : (s.setRecValid b).ibuf = s.ibuf := rfl
@[simp] theorem State.setRecValid_pbuf (b : Bool) : (s.setRecValid b).pbuf = s.pbuf := rfl
@[simp] theorem State.setRecValid_obuf (b : Bool) : (s.setRecValid b).obuf = s.obuf := rfl
@[simp] theorem State.setRecValid_host (b : Bool) : (s.setRecValid b).host = s.host := rfl

/-! `setOlen` -/

@[simp] theorem State.setOlen_params (v : Half) : (s.setOlen v).params = s.params := rfl
@[simp] theorem State.setOlen_epoch (v : Half) : (s.setOlen v).epoch = s.epoch := rfl
@[simp] theorem State.setOlen_ops (v : Half) : (s.setOlen v).ops = s.ops := rfl
@[simp] theorem State.setOlen_status (v : Half) : (s.setOlen v).status = s.status := rfl
@[simp] theorem State.setOlen_errcode (v : Half) : (s.setOlen v).errcode = s.errcode := rfl
@[simp] theorem State.setOlen_olen (v : Half) : (s.setOlen v).olen = v := rfl
@[simp] theorem State.setOlen_res (v : Half) : (s.setOlen v).res = s.res := rfl
@[simp] theorem State.setOlen_hdr (v : Half) : (s.setOlen v).hdr = s.hdr := rfl
@[simp] theorem State.setOlen_walk (v : Half) : (s.setOlen v).walk = s.walk := rfl
@[simp] theorem State.setOlen_record (v : Half) : (s.setOlen v).record = s.record := rfl
@[simp] theorem State.setOlen_ibuf (v : Half) : (s.setOlen v).ibuf = s.ibuf := rfl
@[simp] theorem State.setOlen_pbuf (v : Half) : (s.setOlen v).pbuf = s.pbuf := rfl
@[simp] theorem State.setOlen_obuf (v : Half) : (s.setOlen v).obuf = s.obuf := rfl
@[simp] theorem State.setOlen_host (v : Half) : (s.setOlen v).host = s.host := rfl

/-! `setRes` -/

@[simp] theorem State.setRes_params (r : ResRegs) : (s.setRes r).params = s.params := rfl
@[simp] theorem State.setRes_epoch (r : ResRegs) : (s.setRes r).epoch = s.epoch := rfl
@[simp] theorem State.setRes_ops (r : ResRegs) : (s.setRes r).ops = s.ops := rfl
@[simp] theorem State.setRes_status (r : ResRegs) : (s.setRes r).status = s.status := rfl
@[simp] theorem State.setRes_errcode (r : ResRegs) : (s.setRes r).errcode = s.errcode := rfl
@[simp] theorem State.setRes_olen (r : ResRegs) : (s.setRes r).olen = s.olen := rfl
@[simp] theorem State.setRes_res (r : ResRegs) : (s.setRes r).res = r := rfl
@[simp] theorem State.setRes_hdr (r : ResRegs) : (s.setRes r).hdr = s.hdr := rfl
@[simp] theorem State.setRes_walk (r : ResRegs) : (s.setRes r).walk = s.walk := rfl
@[simp] theorem State.setRes_record (r : ResRegs) : (s.setRes r).record = s.record := rfl
@[simp] theorem State.setRes_ibuf (r : ResRegs) : (s.setRes r).ibuf = s.ibuf := rfl
@[simp] theorem State.setRes_pbuf (r : ResRegs) : (s.setRes r).pbuf = s.pbuf := rfl
@[simp] theorem State.setRes_obuf (r : ResRegs) : (s.setRes r).obuf = s.obuf := rfl
@[simp] theorem State.setRes_host (r : ResRegs) : (s.setRes r).host = s.host := rfl

/-! `setResChk` -/

@[simp] theorem State.setResChk_params (v : Byte) : (s.setResChk v).params = s.params := rfl
@[simp] theorem State.setResChk_epoch (v : Byte) : (s.setResChk v).epoch = s.epoch := rfl
@[simp] theorem State.setResChk_ops (v : Byte) : (s.setResChk v).ops = s.ops := rfl
@[simp] theorem State.setResChk_status (v : Byte) : (s.setResChk v).status = s.status := rfl
@[simp] theorem State.setResChk_errcode (v : Byte) : (s.setResChk v).errcode = s.errcode := rfl
@[simp] theorem State.setResChk_olen (v : Byte) : (s.setResChk v).olen = s.olen := rfl
@[simp] theorem State.setResChk_res (v : Byte) : (s.setResChk v).res = { s.res with chk := v } := rfl
@[simp] theorem State.setResChk_hdr (v : Byte) : (s.setResChk v).hdr = s.hdr := rfl
@[simp] theorem State.setResChk_walk (v : Byte) : (s.setResChk v).walk = s.walk := rfl
@[simp] theorem State.setResChk_record (v : Byte) : (s.setResChk v).record = s.record := rfl
@[simp] theorem State.setResChk_ibuf (v : Byte) : (s.setResChk v).ibuf = s.ibuf := rfl
@[simp] theorem State.setResChk_pbuf (v : Byte) : (s.setResChk v).pbuf = s.pbuf := rfl
@[simp] theorem State.setResChk_obuf (v : Byte) : (s.setResChk v).obuf = s.obuf := rfl
@[simp] theorem State.setResChk_host (v : Byte) : (s.setResChk v).host = s.host := rfl

/-! `setHdr` -/

@[simp] theorem State.setHdr_params (h : HdrRegs) : (s.setHdr h).params = s.params := rfl
@[simp] theorem State.setHdr_epoch (h : HdrRegs) : (s.setHdr h).epoch = s.epoch := rfl
@[simp] theorem State.setHdr_ops (h : HdrRegs) : (s.setHdr h).ops = s.ops := rfl
@[simp] theorem State.setHdr_status (h : HdrRegs) : (s.setHdr h).status = s.status := rfl
@[simp] theorem State.setHdr_errcode (h : HdrRegs) : (s.setHdr h).errcode = s.errcode := rfl
@[simp] theorem State.setHdr_olen (h : HdrRegs) : (s.setHdr h).olen = s.olen := rfl
@[simp] theorem State.setHdr_res (h : HdrRegs) : (s.setHdr h).res = s.res := rfl
@[simp] theorem State.setHdr_hdr (h : HdrRegs) : (s.setHdr h).hdr = h := rfl
@[simp] theorem State.setHdr_walk (h : HdrRegs) : (s.setHdr h).walk = s.walk := rfl
@[simp] theorem State.setHdr_record (h : HdrRegs) : (s.setHdr h).record = s.record := rfl
@[simp] theorem State.setHdr_ibuf (h : HdrRegs) : (s.setHdr h).ibuf = s.ibuf := rfl
@[simp] theorem State.setHdr_pbuf (h : HdrRegs) : (s.setHdr h).pbuf = s.pbuf := rfl
@[simp] theorem State.setHdr_obuf (h : HdrRegs) : (s.setHdr h).obuf = s.obuf := rfl
@[simp] theorem State.setHdr_host (h : HdrRegs) : (s.setHdr h).host = s.host := rfl

/-! `setWalk` -/

@[simp] theorem State.setWalk_params (w : WalkRegs) : (s.setWalk w).params = s.params := rfl
@[simp] theorem State.setWalk_epoch (w : WalkRegs) : (s.setWalk w).epoch = s.epoch := rfl
@[simp] theorem State.setWalk_ops (w : WalkRegs) : (s.setWalk w).ops = s.ops := rfl
@[simp] theorem State.setWalk_status (w : WalkRegs) : (s.setWalk w).status = s.status := rfl
@[simp] theorem State.setWalk_errcode (w : WalkRegs) : (s.setWalk w).errcode = s.errcode := rfl
@[simp] theorem State.setWalk_olen (w : WalkRegs) : (s.setWalk w).olen = s.olen := rfl
@[simp] theorem State.setWalk_res (w : WalkRegs) : (s.setWalk w).res = s.res := rfl
@[simp] theorem State.setWalk_hdr (w : WalkRegs) : (s.setWalk w).hdr = s.hdr := rfl
@[simp] theorem State.setWalk_walk (w : WalkRegs) : (s.setWalk w).walk = w := rfl
@[simp] theorem State.setWalk_record (w : WalkRegs) : (s.setWalk w).record = s.record := rfl
@[simp] theorem State.setWalk_ibuf (w : WalkRegs) : (s.setWalk w).ibuf = s.ibuf := rfl
@[simp] theorem State.setWalk_pbuf (w : WalkRegs) : (s.setWalk w).pbuf = s.pbuf := rfl
@[simp] theorem State.setWalk_obuf (w : WalkRegs) : (s.setWalk w).obuf = s.obuf := rfl
@[simp] theorem State.setWalk_host (w : WalkRegs) : (s.setWalk w).host = s.host := rfl

/-! `setRecord` -/

@[simp] theorem State.setRecord_params (r : RecRegs) : (s.setRecord r).params = s.params := rfl
@[simp] theorem State.setRecord_epoch (r : RecRegs) : (s.setRecord r).epoch = s.epoch := rfl
@[simp] theorem State.setRecord_ops (r : RecRegs) : (s.setRecord r).ops = s.ops := rfl
@[simp] theorem State.setRecord_status (r : RecRegs) : (s.setRecord r).status = s.status := rfl
@[simp] theorem State.setRecord_errcode (r : RecRegs) : (s.setRecord r).errcode = s.errcode := rfl
@[simp] theorem State.setRecord_olen (r : RecRegs) : (s.setRecord r).olen = s.olen := rfl
@[simp] theorem State.setRecord_res (r : RecRegs) : (s.setRecord r).res = s.res := rfl
@[simp] theorem State.setRecord_hdr (r : RecRegs) : (s.setRecord r).hdr = s.hdr := rfl
@[simp] theorem State.setRecord_walk (r : RecRegs) : (s.setRecord r).walk = s.walk := rfl
@[simp] theorem State.setRecord_record (r : RecRegs) : (s.setRecord r).record = r := rfl
@[simp] theorem State.setRecord_ibuf (r : RecRegs) : (s.setRecord r).ibuf = s.ibuf := rfl
@[simp] theorem State.setRecord_pbuf (r : RecRegs) : (s.setRecord r).pbuf = s.pbuf := rfl
@[simp] theorem State.setRecord_obuf (r : RecRegs) : (s.setRecord r).obuf = s.obuf := rfl
@[simp] theorem State.setRecord_host (r : RecRegs) : (s.setRecord r).host = s.host := rfl

/-! `setOps` -/

@[simp] theorem State.setOps_params (o : OperandRegs) : (s.setOps o).params = s.params := rfl
@[simp] theorem State.setOps_epoch (o : OperandRegs) : (s.setOps o).epoch = s.epoch := rfl
@[simp] theorem State.setOps_ops (o : OperandRegs) : (s.setOps o).ops = o := rfl
@[simp] theorem State.setOps_status (o : OperandRegs) : (s.setOps o).status = s.status := rfl
@[simp] theorem State.setOps_errcode (o : OperandRegs) : (s.setOps o).errcode = s.errcode := rfl
@[simp] theorem State.setOps_olen (o : OperandRegs) : (s.setOps o).olen = s.olen := rfl
@[simp] theorem State.setOps_res (o : OperandRegs) : (s.setOps o).res = s.res := rfl
@[simp] theorem State.setOps_hdr (o : OperandRegs) : (s.setOps o).hdr = s.hdr := rfl
@[simp] theorem State.setOps_walk (o : OperandRegs) : (s.setOps o).walk = s.walk := rfl
@[simp] theorem State.setOps_record (o : OperandRegs) : (s.setOps o).record = s.record := rfl
@[simp] theorem State.setOps_ibuf (o : OperandRegs) : (s.setOps o).ibuf = s.ibuf := rfl
@[simp] theorem State.setOps_pbuf (o : OperandRegs) : (s.setOps o).pbuf = s.pbuf := rfl
@[simp] theorem State.setOps_obuf (o : OperandRegs) : (s.setOps o).obuf = s.obuf := rfl
@[simp] theorem State.setOps_host (o : OperandRegs) : (s.setOps o).host = s.host := rfl

/-! `setIbuf` -/

@[simp] theorem State.setIbuf_params (m : Memory) : (s.setIbuf m).params = s.params := rfl
@[simp] theorem State.setIbuf_epoch (m : Memory) : (s.setIbuf m).epoch = s.epoch := rfl
@[simp] theorem State.setIbuf_ops (m : Memory) : (s.setIbuf m).ops = s.ops := rfl
@[simp] theorem State.setIbuf_status (m : Memory) : (s.setIbuf m).status = s.status := rfl
@[simp] theorem State.setIbuf_errcode (m : Memory) : (s.setIbuf m).errcode = s.errcode := rfl
@[simp] theorem State.setIbuf_olen (m : Memory) : (s.setIbuf m).olen = s.olen := rfl
@[simp] theorem State.setIbuf_res (m : Memory) : (s.setIbuf m).res = s.res := rfl
@[simp] theorem State.setIbuf_hdr (m : Memory) : (s.setIbuf m).hdr = s.hdr := rfl
@[simp] theorem State.setIbuf_walk (m : Memory) : (s.setIbuf m).walk = s.walk := rfl
@[simp] theorem State.setIbuf_record (m : Memory) : (s.setIbuf m).record = s.record := rfl
@[simp] theorem State.setIbuf_ibuf (m : Memory) : (s.setIbuf m).ibuf = m := rfl
@[simp] theorem State.setIbuf_pbuf (m : Memory) : (s.setIbuf m).pbuf = s.pbuf := rfl
@[simp] theorem State.setIbuf_obuf (m : Memory) : (s.setIbuf m).obuf = s.obuf := rfl
@[simp] theorem State.setIbuf_host (m : Memory) : (s.setIbuf m).host = s.host := rfl

/-! `setPbuf` -/

@[simp] theorem State.setPbuf_params (m : Memory) : (s.setPbuf m).params = s.params := rfl
@[simp] theorem State.setPbuf_epoch (m : Memory) : (s.setPbuf m).epoch = s.epoch := rfl
@[simp] theorem State.setPbuf_ops (m : Memory) : (s.setPbuf m).ops = s.ops := rfl
@[simp] theorem State.setPbuf_status (m : Memory) : (s.setPbuf m).status = s.status := rfl
@[simp] theorem State.setPbuf_errcode (m : Memory) : (s.setPbuf m).errcode = s.errcode := rfl
@[simp] theorem State.setPbuf_olen (m : Memory) : (s.setPbuf m).olen = s.olen := rfl
@[simp] theorem State.setPbuf_res (m : Memory) : (s.setPbuf m).res = s.res := rfl
@[simp] theorem State.setPbuf_hdr (m : Memory) : (s.setPbuf m).hdr = s.hdr := rfl
@[simp] theorem State.setPbuf_walk (m : Memory) : (s.setPbuf m).walk = s.walk := rfl
@[simp] theorem State.setPbuf_record (m : Memory) : (s.setPbuf m).record = s.record := rfl
@[simp] theorem State.setPbuf_ibuf (m : Memory) : (s.setPbuf m).ibuf = s.ibuf := rfl
@[simp] theorem State.setPbuf_pbuf (m : Memory) : (s.setPbuf m).pbuf = m := rfl
@[simp] theorem State.setPbuf_obuf (m : Memory) : (s.setPbuf m).obuf = s.obuf := rfl
@[simp] theorem State.setPbuf_host (m : Memory) : (s.setPbuf m).host = s.host := rfl

/-! `setObuf` -/

@[simp] theorem State.setObuf_params (m : Memory) : (s.setObuf m).params = s.params := rfl
@[simp] theorem State.setObuf_epoch (m : Memory) : (s.setObuf m).epoch = s.epoch := rfl
@[simp] theorem State.setObuf_ops (m : Memory) : (s.setObuf m).ops = s.ops := rfl
@[simp] theorem State.setObuf_status (m : Memory) : (s.setObuf m).status = s.status := rfl
@[simp] theorem State.setObuf_errcode (m : Memory) : (s.setObuf m).errcode = s.errcode := rfl
@[simp] theorem State.setObuf_olen (m : Memory) : (s.setObuf m).olen = s.olen := rfl
@[simp] theorem State.setObuf_res (m : Memory) : (s.setObuf m).res = s.res := rfl
@[simp] theorem State.setObuf_hdr (m : Memory) : (s.setObuf m).hdr = s.hdr := rfl
@[simp] theorem State.setObuf_walk (m : Memory) : (s.setObuf m).walk = s.walk := rfl
@[simp] theorem State.setObuf_record (m : Memory) : (s.setObuf m).record = s.record := rfl
@[simp] theorem State.setObuf_ibuf (m : Memory) : (s.setObuf m).ibuf = s.ibuf := rfl
@[simp] theorem State.setObuf_pbuf (m : Memory) : (s.setObuf m).pbuf = s.pbuf := rfl
@[simp] theorem State.setObuf_obuf (m : Memory) : (s.setObuf m).obuf = m := rfl
@[simp] theorem State.setObuf_host (m : Memory) : (s.setObuf m).host = s.host := rfl

/-! `setHost` -/

@[simp] theorem State.setHost_params (h : HostPort) : (s.setHost h).params = s.params := rfl
@[simp] theorem State.setHost_epoch (h : HostPort) : (s.setHost h).epoch = s.epoch := rfl
@[simp] theorem State.setHost_ops (h : HostPort) : (s.setHost h).ops = s.ops := rfl
@[simp] theorem State.setHost_status (h : HostPort) : (s.setHost h).status = s.status := rfl
@[simp] theorem State.setHost_errcode (h : HostPort) : (s.setHost h).errcode = s.errcode := rfl
@[simp] theorem State.setHost_olen (h : HostPort) : (s.setHost h).olen = s.olen := rfl
@[simp] theorem State.setHost_res (h : HostPort) : (s.setHost h).res = s.res := rfl
@[simp] theorem State.setHost_hdr (h : HostPort) : (s.setHost h).hdr = s.hdr := rfl
@[simp] theorem State.setHost_walk (h : HostPort) : (s.setHost h).walk = s.walk := rfl
@[simp] theorem State.setHost_record (h : HostPort) : (s.setHost h).record = s.record := rfl
@[simp] theorem State.setHost_ibuf (h : HostPort) : (s.setHost h).ibuf = s.ibuf := rfl
@[simp] theorem State.setHost_pbuf (h : HostPort) : (s.setHost h).pbuf = s.pbuf := rfl
@[simp] theorem State.setHost_obuf (h : HostPort) : (s.setHost h).obuf = s.obuf := rfl
@[simp] theorem State.setHost_host (h : HostPort) : (s.setHost h).host = h := rfl

/-! `invalidate` -/

@[simp] theorem State.invalidate_params : s.invalidate.params = s.params := rfl
@[simp] theorem State.invalidate_epoch : s.invalidate.epoch = s.epoch := rfl
@[simp] theorem State.invalidate_ops : s.invalidate.ops = s.ops := rfl
@[simp] theorem State.invalidate_status : s.invalidate.status = { s.status with fkind := .none, walkActive := false, recValid := false } := rfl
@[simp] theorem State.invalidate_errcode : s.invalidate.errcode = s.errcode := rfl
@[simp] theorem State.invalidate_olen : s.invalidate.olen = s.olen := rfl
@[simp] theorem State.invalidate_res : s.invalidate.res = s.res := rfl
@[simp] theorem State.invalidate_hdr : s.invalidate.hdr = s.hdr := rfl
@[simp] theorem State.invalidate_walk : s.invalidate.walk = s.walk := rfl
@[simp] theorem State.invalidate_record : s.invalidate.record = s.record := rfl
@[simp] theorem State.invalidate_ibuf : s.invalidate.ibuf = s.ibuf := rfl
@[simp] theorem State.invalidate_pbuf : s.invalidate.pbuf = s.pbuf := rfl
@[simp] theorem State.invalidate_obuf : s.invalidate.obuf = s.obuf := rfl
@[simp] theorem State.invalidate_host : s.invalidate.host = s.host := rfl

/-! `clearRec` -/

@[simp] theorem State.clearRec_params : s.clearRec.params = s.params := rfl
@[simp] theorem State.clearRec_epoch : s.clearRec.epoch = s.epoch := rfl
@[simp] theorem State.clearRec_ops : s.clearRec.ops = s.ops := rfl
@[simp] theorem State.clearRec_status : s.clearRec.status = { s.status with recValid := false } := rfl
@[simp] theorem State.clearRec_errcode : s.clearRec.errcode = s.errcode := rfl
@[simp] theorem State.clearRec_olen : s.clearRec.olen = s.olen := rfl
@[simp] theorem State.clearRec_res : s.clearRec.res = s.res := rfl
@[simp] theorem State.clearRec_hdr : s.clearRec.hdr = s.hdr := rfl
@[simp] theorem State.clearRec_walk : s.clearRec.walk = s.walk := rfl
@[simp] theorem State.clearRec_record : s.clearRec.record = RecRegs.zero := rfl
@[simp] theorem State.clearRec_ibuf : s.clearRec.ibuf = s.ibuf := rfl
@[simp] theorem State.clearRec_pbuf : s.clearRec.pbuf = s.pbuf := rfl
@[simp] theorem State.clearRec_obuf : s.clearRec.obuf = s.obuf := rfl
@[simp] theorem State.clearRec_host : s.clearRec.host = s.host := rfl

/-! `validatePrologue` -/

@[simp] theorem State.validatePrologue_params : s.validatePrologue.params = s.params := rfl
@[simp] theorem State.validatePrologue_epoch : s.validatePrologue.epoch = s.epoch := rfl
@[simp] theorem State.validatePrologue_ops : s.validatePrologue.ops = s.ops := rfl
@[simp] theorem State.validatePrologue_status : s.validatePrologue.status = { s.status with fkind := .none, walkActive := false, recValid := false } := rfl
@[simp] theorem State.validatePrologue_errcode : s.validatePrologue.errcode = s.errcode := rfl
@[simp] theorem State.validatePrologue_olen : s.validatePrologue.olen = s.olen := rfl
@[simp] theorem State.validatePrologue_res : s.validatePrologue.res = ResRegs.zero := rfl
@[simp] theorem State.validatePrologue_hdr : s.validatePrologue.hdr = s.hdr := rfl
@[simp] theorem State.validatePrologue_walk : s.validatePrologue.walk = s.walk := rfl
@[simp] theorem State.validatePrologue_record : s.validatePrologue.record = s.record := rfl
@[simp] theorem State.validatePrologue_ibuf : s.validatePrologue.ibuf = s.ibuf := rfl
@[simp] theorem State.validatePrologue_pbuf : s.validatePrologue.pbuf = s.pbuf := rfl
@[simp] theorem State.validatePrologue_obuf : s.validatePrologue.obuf = s.obuf := rfl
@[simp] theorem State.validatePrologue_host : s.validatePrologue.host = s.host := rfl

end

end Sys2Proof.Machine
end

