-- ==== Sys2Proof/Laws/Memory.lean ====
section
/-! SUPPORT. The laws of buffer memory: read after write, every other byte kept, the canonical form and the size bound kept;
and what a run of byte writes leaves. -/

namespace Sys2Proof.Machine

/-! ## One byte -/

theorem Memory.get_put_same (m : Memory) (i : Nat) (b : Byte) : (m.put i b).get i = some b := by
  induction m with
  | nil => simp [Memory.put, Memory.get]
  | cons c rest ih =>
    simp only [Memory.put]
    split
    · simp [Memory.get]
    · split
      · simp [Memory.get]
      · have : c.1 ≠ i := by omega
        simp [Memory.get, this, ih]

theorem Memory.get_put_other (m : Memory) {i j : Nat} (b : Byte) (h : j ≠ i) : (m.put i b).get j = m.get j := by
  induction m with
  | nil => simp [Memory.put, Memory.get, Ne.symm h]
  | cons c rest ih =>
    simp only [Memory.put]
    split
    · simp [Memory.get, Ne.symm h]
    · split
      · rename_i _ hc
        simp [Memory.get, ← hc, Ne.symm h]
      · simp [Memory.get, ih]

theorem Memory.mem_put {m : Memory} {i : Nat} {b : Byte} {c : Host.Cell} (h : c ∈ m.put i b) : c = (i, b) ∨ c ∈ m := by
  induction m with
  | nil => simpa [Memory.put] using h
  | cons d rest ih =>
    simp only [Memory.put] at h
    split at h
    · simpa using h
    · split at h
      · rcases List.mem_cons.1 h with h | h
        · exact .inl h
        · exact .inr (List.mem_cons_of_mem _ h)
      · rcases List.mem_cons.1 h with h | h
        · exact .inr (h ▸ List.mem_cons_self)
        · exact (ih h).imp_right (List.mem_cons_of_mem _)

/-- A write keeps the canonical form. -/
theorem Memory.put_wf {m : Memory} (h : m.wf) (i : Nat) (b : Byte) : (m.put i b).wf := by
  induction m with
  | nil => simp [Memory.wf, Memory.put]
  | cons c rest ih =>
    obtain ⟨hc, hr⟩ := List.pairwise_cons.1 h
    simp only [Memory.wf, Memory.put]
    split
    · rename_i hlt
      refine List.pairwise_cons.2 ⟨fun d hd => ?_, h⟩
      rcases List.mem_cons.1 hd with rfl | hd
      · exact hlt
      · exact Nat.lt_trans hlt (hc d hd)
    · split
      · rename_i _ heq
        exact List.pairwise_cons.2 ⟨fun d hd => heq ▸ hc d hd, hr⟩
      · refine List.pairwise_cons.2 ⟨fun d hd => ?_, ih hr⟩
        rcases Memory.mem_put hd with rfl | hd
        · show c.1 < i
          omega
        · exact hc d hd

/-- A write below the size keeps the contents below it. -/
theorem Memory.put_below {m : Memory} {size i : Nat} (h : m.below size) (hi : i < size) (b : Byte) :
    (m.put i b).below size := by
  intro c hc
  rcases Memory.mem_put hc with rfl | hc
  · exact hi
  · exact h c hc

/-- The buffers of the state after reset are canonical and inside their sizes: nothing is written. -/
theorem State.reset_mem_wf (b : Buf) : (State.reset.mem b).wf ∧ (State.reset.mem b).below (State.reset.bufSize b) := by
  cases b <;> simp [State.reset, State.mem, Memory.wf, Memory.below]

/-! ## Consecutive bytes -/

theorem Memory.putBytes_wf {m : Memory} (h : m.wf) (i : Nat) (bs : List Byte) : (m.putBytes i bs).wf := by
  induction bs generalizing m i with
  | nil => exact h
  | cons b bs ih => exact ih (Memory.put_wf h i b) (i + 1)

theorem Memory.putLe_wf {m : Memory} (h : m.wf) (i n v : Nat) : (m.putLe i n v).wf := Memory.putBytes_wf h i (leBytes n v)

theorem Memory.putBytes_below {m : Memory} {size : Nat} (h : m.below size) (i : Nat) (bs : List Byte)
    (hi : i + bs.length ≤ size) : (m.putBytes i bs).below size := by
  induction bs generalizing m i with
  | nil => exact h
  | cons b bs ih =>
    simp only [List.length_cons] at hi
    exact ih (Memory.put_below h (by omega) b) (i + 1) (by omega)

theorem Memory.get_putBytes_outside (m : Memory) (i : Nat) (bs : List Byte) {j : Nat}
    (h : j < i ∨ i + bs.length ≤ j) : (m.putBytes i bs).get j = m.get j := by
  induction bs generalizing m i with
  | nil => rfl
  | cons b bs ih =>
    simp only [List.length_cons] at h
    rw [Memory.putBytes, ih _ _ (by omega), Memory.get_put_other _ _ (by omega)]

theorem Memory.get_putBytes_inside (m : Memory) (i : Nat) (bs : List Byte) {k : Nat} (h : k < bs.length) :
    (m.putBytes i bs).get (i + k) = some bs[k] := by
  induction bs generalizing m i k with
  | nil => simp at h
  | cons b bs ih =>
    cases k with
    | zero =>
      rw [Memory.putBytes, Memory.get_putBytes_outside _ _ _ (by omega)]
      simp [Memory.get_put_same]
    | succ k =>
      simp only [List.length_cons] at h
      have := ih (m := m.put i b) (i := i + 1) (k := k) (by omega)
      simpa [Memory.putBytes, Nat.add_assoc, Nat.add_comm 1 k] using this

/-! ## The byte accessor -/

/-- The accessor of a buffer reads its contents, the sizes and the epoch, and nothing else. -/
theorem State.bufByte_congr {s t : State} {b : Buf} (hp : t.params = s.params) (he : t.epoch = s.epoch)
    (hm : t.mem b = s.mem b) (i : Nat) : t.bufByte b i = s.bufByte b i := by
  have hs : t.bufSize b = s.bufSize b := by cases b <;> simp [State.bufSize, hp]
  rw [State.bufByte, State.bufByte, hs, he, hm]

theorem State.bufByte_outside (s : State) {b : Buf} {i : Nat} (h : s.bufSize b ≤ i) : s.bufByte b i = 0 := by
  simp [State.bufByte, Nat.not_lt.2 h]

/-- A byte written at an index inside the buffer reads back. -/
theorem State.bufByte_of_get {s : State} {b : Buf} {i : Nat} {v : Byte} (hi : i < s.bufSize b)
    (h : (s.mem b).get i = some v) : s.bufByte b i = v := by
  simp [State.bufByte, hi, h]

/-- Two states of the same sizes and epoch, whose contents agree at an index, read the same byte there. -/
theorem State.bufByte_of_get_eq {s t : State} {b : Buf} {i : Nat} (hp : t.params = s.params) (he : t.epoch = s.epoch)
    (h : (t.mem b).get i = (s.mem b).get i) : t.bufByte b i = s.bufByte b i := by
  have hs : t.bufSize b = s.bufSize b := by cases b <;> simp [State.bufSize, hp]
  rw [State.bufByte, State.bufByte, hs, he, h]

end Sys2Proof.Machine
end

