-- ==== Sys2Proof/Laws/Bytes.lean ====
section
/-! SUPPORT. Byte lists: what `readBytes` gives, the truncated sum and the little-endian value in plain arithmetic, and the
bytes of the two frames by offset. -/

namespace Sys2Proof.Machine

/-! ## Reading consecutive bytes -/

@[simp] theorem readBytes_length (rd : Nat → Byte) (i n : Nat) : (readBytes rd i n).length = n := by
  induction n generalizing i with
  | zero => rfl
  | succ n ih => simp [readBytes, ih]

@[simp] theorem readBytes_getElem (rd : Nat → Byte) (i n : Nat) {k : Nat} (h : k < (readBytes rd i n).length) :
    (readBytes rd i n)[k] = rd (i + k) := by
  induction n generalizing i k with
  | zero => simp at h
  | succ n ih =>
    cases k with
    | zero => rfl
    | succ k => simp [readBytes, ih, Nat.add_assoc, Nat.add_comm 1 k]

/-- Two readers that agree on the bytes read give the same list. -/
theorem readBytes_congr {rd rd' : Nat → Byte} {i n : Nat} (h : ∀ k, i ≤ k → k < i + n → rd' k = rd k) :
    readBytes rd' i n = readBytes rd i n := by
  induction n generalizing i with
  | zero => rfl
  | succ n ih =>
    rw [readBytes, readBytes, h i (by omega) (by omega), ih fun k h1 h2 => h k (by omega) (by omega)]

/-- Reading the bytes of a list back gives the list. -/
theorem readBytes_eq {rd : Nat → Byte} {i : Nat} {bs : List Byte} (h : ∀ k, (hk : k < bs.length) → rd (i + k) = bs[k]) :
    readBytes rd i bs.length = bs := by
  refine List.ext_getElem (by simp) fun k h1 h2 => ?_
  simpa using h k h2

/-! ## Sums -/

theorem totalOf_succ (rd : Nat → Byte) (i n : Nat) : totalOf rd i (n + 1) = (rd i).toNat + totalOf rd (i + 1) n := by
  simp [totalOf, List.range_succ_eq_map, Function.comp_def, Nat.add_assoc, Nat.add_comm 1]

theorem byteTotal_readBytes (rd : Nat → Byte) (i n : Nat) : byteTotal (readBytes rd i n) = totalOf rd i n := by
  induction n generalizing i with
  | zero => rfl
  | succ n ih => rw [readBytes, byteTotal, ih, totalOf_succ]

theorem sum8_toNat (bs : List Byte) : (sum8 bs).toNat = byteTotal bs % 256 := by simp [sum8]

/-- The truncated sum of consecutive bytes is their exact sum mod 256 (R11). -/
theorem sum8_readBytes_toNat (rd : Nat → Byte) (i n : Nat) : (sum8 (readBytes rd i n)).toNat = totalOf rd i n % 256 := by
  rw [sum8_toNat, byteTotal_readBytes]

/-- The short frame's checksum is the wrapping sum of C and A (R101). -/
theorem sum8_pair (c a : Byte) : sum8 [c, a] = c + a := by
  apply BitVec.eq_of_toNat_eq
  simp [sum8_toNat, byteTotal]

/-! ## Little-endian values -/

theorem valueOf_succ (rd : Nat → Byte) (i n : Nat) :
    valueOf rd i (n + 1) = (rd i).toNat + 256 * valueOf rd (i + 1) n := by
  have h : ∀ (l : List Nat) (f : Nat → Nat), (l.map fun k => f k * 256 ^ (k + 1)).sum
      = 256 * (l.map fun k => f k * 256 ^ k).sum := by
    intro l f
    induction l with
    | nil => rfl
    | cons x l ih =>
      simp only [List.map_cons, List.sum_cons, ih, Nat.mul_add]
      ring
  have := h (List.range n) fun k => (rd (i + 1 + k)).toNat
  simp only [valueOf, List.range_succ_eq_map, List.map_cons, List.sum_cons, List.map_map, Function.comp_def]
  simpa [Nat.add_assoc, Nat.add_comm 1] using this

theorem leValue_readBytes (rd : Nat → Byte) (i n : Nat) : leValue (readBytes rd i n) = valueOf rd i n := by
  induction n generalizing i with
  | zero => rfl
  | succ n ih => rw [readBytes, leValue, ih, valueOf_succ]

theorem leValue_lt (bs : List Byte) : leValue bs < 256 ^ bs.length := by
  induction bs with
  | nil => simp [leValue]
  | cons b bs ih =>
    have := b.isLt
    simp only [leValue, List.length_cons, Nat.pow_succ]
    omega

theorem valueOf_lt (rd : Nat → Byte) (i n : Nat) : valueOf rd i n < 256 ^ n := by
  simpa [leValue_readBytes] using leValue_lt (readBytes rd i n)

theorem valueOf_congr {rd rd' : Nat → Byte} {i n : Nat} (h : ∀ k, i ≤ k → k < i + n → rd' k = rd k) :
    valueOf rd' i n = valueOf rd i n := by
  rw [← leValue_readBytes, ← leValue_readBytes, readBytes_congr h]

/-! ## The frames -/

@[simp] theorem shortFrame_length (c a : Byte) : (shortFrame c a).length = 5 := rfl

@[simp] theorem longFrame_length (c a ci : Byte) (payload : List Byte) :
    (longFrame c a ci payload).length = payload.length + 9 := by simp [longFrame]

theorem longLength_toNat {n : Nat} (h : n ≤ 252) : (longLength n).toNat = n + 3 := by
  simp only [longLength, BitVec.toNat_ofNat]
  omega

/-- The payload of a long frame lies at offset 7 (R85). -/
theorem longFrame_payload (c a ci : Byte) (payload : List Byte) {k : Nat} (h : k < payload.length) :
    (longFrame c a ci payload)[7 + k]? = some payload[k] := by
  have : 7 + k = k + 7 := by omega
  simp [longFrame, this, List.getElem?_append_left h, h]

/-- The CHK byte of a long frame lies at offset L + 4 (R85), the sum of C, A, CI and the payload (R103). -/
theorem longFrame_chk (c a ci : Byte) (payload : List Byte) :
    (longFrame c a ci payload)[payload.length + 7]? = some (sum8 (c :: a :: ci :: payload)) := by
  simp [longFrame]

/-- The STOP byte of a long frame lies at offset L + 5 (R85). -/
theorem longFrame_stop (c a ci : Byte) (payload : List Byte) :
    (longFrame c a ci payload)[payload.length + 8]? = some stopByte := by
  simp [longFrame]

end Sys2Proof.Machine
end

