-- ==== Sys2Proof/Laws/Commands.lean ====
section
/-! SUPPORT. One lemma for each shared operation of the commands, saying once everything it can do: the two ends of a command,
the validators' shape, the walker's look at the payload. -/

namespace Sys2Proof.Machine

/-! ## The ends of a command -/

theorem finish_eq (s : State) : finish s = .next (s.report false .ok) := rfl

theorem raiseError_eq (fam : Family) (c : ErrCode) (s : State) :
    raiseError fam c s = .next ((s.clearFamily fam).report true c) := rfl

/-! ## What each branch of a command answers -/

theorem execBuildLong_tooBig {s : State} (h : s.plenTooBig) : execBuildLong s = raiseError .build .operand s := if_pos h

theorem execBuildLong_tooLong {s : State} (h : ¬s.plenTooBig) (hn : maxPayload < s.ops.plen.toNat) :
    execBuildLong s = raiseError .build .payloadTooLong s := (if_neg h).trans (if_pos hn)

theorem execBuildLong_builds {s : State} (h : ¬s.plenTooBig) (hn : ¬maxPayload < s.ops.plen.toNat) :
    execBuildLong s =
      finish ((s.setObuf
        (s.obuf.putBytes 0 (longFrame s.ops.opC s.ops.opA s.ops.opCI s.payloadOperand))).setOlen (s.ops.plen + 9#16)) :=
  (if_neg h).trans (if_neg hn)

theorem execChecksum_tooBig {s : State} (h : s.plenTooBig) : execChecksum s = raiseError .checksum .operand s := if_pos h

theorem execChecksum_sums {s : State} (h : ¬s.plenTooBig) : execChecksum s = finish (s.setResChk (sum8 s.payloadOperand)) :=
  if_neg h

theorem execDecodeHeader_noFrame {s : State} (h : s.status.fkind ≠ .long) :
    execDecodeHeader s = raiseError .header .state s := if_pos h

theorem execDecodeHeader_short {s : State} (h : s.status.fkind = .long) (hn : s.res.plen.toNat < headerSize) :
    execDecodeHeader s = raiseError .header .headerShort s := (if_neg (not_not_intro h)).trans (if_pos hn)

theorem execDecodeHeader_decodes {s : State} (h : s.status.fkind = .long) (hn : ¬s.res.plen.toNat < headerSize) :
    execDecodeHeader s = finish (s.setHdr s.headerFields) := (if_neg (not_not_intro h)).trans (if_neg hn)

theorem execWalkStart_noFrame {s : State} (h : s.status.fkind ≠ .long) :
    execWalkStart s = raiseError .walkStart .state s.clearRec := if_pos h

theorem execWalkStart_starts {s : State} (h : s.status.fkind = .long) : execWalkStart s =
    finish ((s.clearRec.setWalk { off := s.ops.walkBase, reason := .none, index := 0 }).setWalkActive true) :=
  if_neg (not_not_intro h)

theorem execWalkNext_noWalk {s : State} (h : s.status.walkActive = false) :
    execWalkNext s = raiseError .walkNext .state s.clearRec := if_pos h

theorem execWalkNext_looks {s : State} (h : s.status.walkActive = true) : execWalkNext s =
    finish (s.clearRec.walkStep (walkFind s.payloadByte s.res.plen.toNat s.walk.off.toNat)) :=
  if_neg (by simp [h])

/-- OBUF after a build has written `bs` from index 0: the bytes, and the old ones above (R38). -/
theorem bufByte_obuf_putBytes {s t : State} {bs : List Byte} (hp : t.params = s.params) (he : t.epoch = s.epoch)
    (ho : t.obuf = s.obuf.putBytes 0 bs) :
    (∀ k v, bs[k]? = some v → k < 261 → t.bufByte .obuf k = v) ∧
      ∀ k, bs.length ≤ k → t.bufByte .obuf k = s.bufByte .obuf k := by
  constructor
  · intro k v hv hk
    obtain ⟨h1, h2⟩ := List.getElem?_eq_some_iff.1 hv
    refine State.bufByte_of_get hk ?_
    show t.obuf.get k = some v
    rw [ho, ← h2]
    simpa using Memory.get_putBytes_inside s.obuf 0 bs h1
  · intro k h
    refine State.bufByte_of_get_eq hp he ?_
    show t.obuf.get k = s.obuf.get k
    rw [ho, Memory.get_putBytes_outside _ _ _ (by omega)]

/-! ## The validators (R120) -/

theorem raiseError_validate (c : ErrCode) (s : State) :
    raiseError .validate c s.validatePrologue = .next (s.rejected c) := by
  cases s; rfl

theorem validateWith_tooBig {check : Option ErrCode} {res : ResRegs} {kind : FrameKind} {s : State}
    (h : s.params.ibufSize < s.ops.ilen.toNat) : validateWith check res kind s = .next (s.rejected .operand) := by
  unfold validateWith
  rw [if_pos (show s.ilenTooBig from h), raiseError_validate]

theorem validateWith_some {e : ErrCode} {res : ResRegs} {kind : FrameKind} {s : State}
    (h : s.ops.ilen.toNat ≤ s.params.ibufSize) : validateWith (some e) res kind s = .next (s.rejected e) := by
  unfold validateWith
  rw [if_neg (show ¬s.ilenTooBig from Nat.not_lt.2 h)]
  exact raiseError_validate e s

theorem validateWith_none {res : ResRegs} {kind : FrameKind} {s : State}
    (h : s.ops.ilen.toNat ≤ s.params.ibufSize) : validateWith none res kind s = .next (s.accepted kind res) := by
  unfold validateWith
  rw [if_neg (show ¬s.ilenTooBig from Nat.not_lt.2 h)]
  cases s; rfl

/-- Everything a validate-family command can do: fail the operand check, fail a check of its own, or pass. -/
theorem validateWith_cases (check : Option ErrCode) (res : ResRegs) (kind : FrameKind) (s : State) :
    (s.params.ibufSize < s.ops.ilen.toNat ∧ validateWith check res kind s = .next (s.rejected .operand)) ∨
    (s.ops.ilen.toNat ≤ s.params.ibufSize ∧ ∃ e, check = some e ∧
      validateWith check res kind s = .next (s.rejected e)) ∨
    (s.ops.ilen.toNat ≤ s.params.ibufSize ∧ check = none ∧
      validateWith check res kind s = .next (s.accepted kind res)) := by
  rcases Nat.lt_or_ge s.params.ibufSize s.ops.ilen.toNat with h | h
  · exact .inl ⟨h, validateWith_tooBig h⟩
  · cases check with
    | some e => exact .inr (.inl ⟨h, e, rfl, validateWith_some h⟩)
    | none => exact .inr (.inr ⟨h, rfl, validateWith_none h⟩)

/-- What a pass of the short-frame checks means (R121). -/
theorem shortFrameError_eq_none_iff (rd : Nat → Byte) (len : Nat) :
    shortFrameError rd len = none ↔
      5 ≤ len ∧ rd 0 = shortStart ∧ rd 4 = stopByte ∧ rd 3 = sum8 (readBytes rd 1 2) := by
  unfold shortFrameError
  repeat' split
  all_goals simp_all

/-- What a pass of the long-frame checks means (R124). -/
theorem longFrameError_eq_none_iff (rd : Nat → Byte) (len : Nat) :
    longFrameError rd len = none ↔
      9 ≤ len ∧ rd 1 = rd 2 ∧ rd 0 = longStart ∧ rd 3 = longStart ∧ 3 ≤ (rd 1).toNat ∧ (rd 1).toNat + 6 ≤ len ∧
        rd ((rd 1).toNat + 5) = stopByte ∧ rd ((rd 1).toNat + 4) = sum8 (readBytes rd 4 (rd 1).toNat) := by
  unfold longFrameError
  repeat' split
  all_goals simp_all
  tauto

/-- The short-frame checks read no byte at or above `len` (R63). -/
theorem shortFrameError_congr {rd rd' : Nat → Byte} {len : Nat} (h : ∀ k, k < len → rd' k = rd k) :
    shortFrameError rd' len = shortFrameError rd len := by
  unfold shortFrameError
  by_cases hl : len < 5
  · simp [hl]
  · rw [h 0 (by omega), h 3 (by omega), h 4 (by omega),
      readBytes_congr (n := 2) (i := 1) fun k _ hk => h k (by omega)]

/-- The long-frame checks read no byte at or above `len` (R63). -/
theorem longFrameError_congr {rd rd' : Nat → Byte} {len : Nat} (h : ∀ k, k < len → rd' k = rd k) :
    longFrameError rd' len = longFrameError rd len := by
  unfold longFrameError
  by_cases hl : len < 9
  · simp [hl]
  · rw [h 0 (by omega), h 1 (by omega), h 2 (by omega), h 3 (by omega)]
    by_cases hx : len < (rd 1).toNat + 6
    · simp [hx]
    · rw [h _ (show (rd 1).toNat + 5 < len by omega), h _ (show (rd 1).toNat + 4 < len by omega),
        readBytes_congr (n := (rd 1).toNat) (i := 4) fun k _ hk => h k (by omega)]

/-! ## The walker (R176) -/

theorem difCode_toNat (dif : Byte) : (difCode dif).toNat = dif.toNat % 16 := by
  simp [difCode, BitVec.extractLsb'_toNat]

theorem byte_bit7 (b : Byte) : b.getLsbD 7 = decide (b.toNat / 128 = 1) := by
  have := b.isLt
  rw [← BitVec.testBit_toNat, Nat.testBit_eq_decide_div_mod_eq]
  congr 1
  apply propext
  omega

theorem byte_top (b : Byte) : b.toNat / 128 = 0 ∨ b.toNat / 128 = 1 := by
  have := b.isLt
  omega

/-- The data length by plain arithmetic (R90, R172). -/
theorem dataLength_eq (dif : Byte) : dataLength (difCode dif) =
    if dif.toNat % 16 ≤ 7 then some ([0, 1, 2, 3, 4, 4, 6, 8].getD (dif.toNat % 16) 0) else none := by
  have h : dif.toNat % 16 < 16 := Nat.mod_lt _ (by decide)
  rw [dataLength, difCode_toNat]
  generalize dif.toNat % 16 = c at h
  revert c
  decide

/-- The data length is at most 8 (R90). -/
theorem dataLength_le (c : Nat) : ([0, 1, 2, 3, 4, 4, 6, 8] : List Nat).getD c 0 ≤ 8 := by
  match c with
  | 0 | 1 | 2 | 3 | 4 | 5 | 6 | 7 => decide
  | _ + 8 => simp

theorem readExtension_absent (rd : Nat → Byte) (n q : Nat) {b : Byte} (h : b.toNat / 128 = 0) :
    readExtension rd n (b.getLsbD 7) q = some (0, q) := by
  rw [readExtension, byte_bit7, h]
  rfl

theorem readExtension_present (rd : Nat → Byte) (n q : Nat) {b : Byte} (h : b.toNat / 128 = 1) :
    readExtension rd n (b.getLsbD 7) q = if q < n then some (rd q, q + 1) else none := by
  rw [readExtension, byte_bit7, h]
  rfl

/-- The look at a record from its VIF on, at offset `q`. -/
theorem walkFind_tail (rd : Nat → Byte) (n q l : Nat) (f : Byte → Nat → RecRegs) :
    (if n ≤ q then WalkFind.ended .truncated
      else
        match readExtension rd n (vifHasExt (rd q)) (q + 1) with
        | none => .ended .truncated
        | some (vife, d) => if n < d + l then .ended .truncated else .record (f vife d) (d + l)) =
    if n < q + 1 + (rd q).toNat / 128 + l then .ended .truncated
    else .record (f (if (rd q).toNat / 128 = 1 then rd (q + 1) else 0) (q + 1 + (rd q).toNat / 128))
      (q + 1 + (rd q).toNat / 128 + l) := by
  unfold vifHasExt
  by_cases hq : n ≤ q
  · rw [if_pos hq, if_pos (by omega)]
  rw [if_neg hq]
  rcases byte_top (rd q) with hv | hv
  · rw [readExtension_absent _ _ _ hv, hv]
    rfl
  · rw [readExtension_present _ _ _ hv, hv]
    by_cases h1 : q + 1 < n
    · rw [if_pos h1]
      rfl
    · rw [if_neg h1, if_pos (by omega)]

/-- Everything one look at the payload can find, by plain arithmetic over the record layout of R93. -/
theorem walkFind_eq (rd : Nat → Byte) (n p : Nat) : walkFind rd n p =
    if n ≤ p then .ended .endOfData
    else if 7 < (rd p).toNat % 16 then .ended .reservedDfc
    else
      let e := (rd p).toNat / 128
      let v := (rd (p + 1 + e)).toNat / 128
      let d := p + 2 + e + v
      let l := ([0, 1, 2, 3, 4, 4, 6, 8] : List Nat).getD ((rd p).toNat % 16) 0
      if n < d + l then .ended .truncated
      else .record
        (recordOf rd (rd p) (if e = 1 then rd (p + 1) else 0) (rd (p + 1 + e))
          (if v = 1 then rd (p + 2 + e) else 0) d l) (d + l) := by
  unfold walkFind
  by_cases hp : n ≤ p
  · rw [if_pos hp, if_pos hp]
  rw [if_neg hp, if_neg hp, dataLength_eq]
  by_cases hc : 7 < (rd p).toNat % 16
  · rw [if_pos hc, if_neg (by omega)]
  rw [if_neg hc, if_pos (by omega)]
  generalize ([0, 1, 2, 3, 4, 4, 6, 8] : List Nat).getD ((rd p).toNat % 16) 0 = l
  unfold difHasExt
  rcases byte_top (rd p) with he | he
  · rw [readExtension_absent _ _ _ he, he]
    have := walkFind_tail rd n (p + 1) l fun vife d => recordOf rd (rd p) 0 (rd (p + 1)) vife d l
    refine this.trans ?_
    rw [show p + 2 + 0 = p + 1 + 1 by omega]
    rfl
  · rw [readExtension_present _ _ _ he, he]
    by_cases h1 : p + 1 < n
    · rw [if_pos h1]
      have := walkFind_tail rd n (p + 2) l fun vife d => recordOf rd (rd p) (rd (p + 1)) (rd (p + 2)) vife d l
      refine this.trans ?_
      rw [show p + 2 + 1 = p + 2 + 1 by omega]
      rfl
    · rw [if_neg h1]
      show WalkFind.ended .truncated = _
      rw [if_pos (by omega)]

end Sys2Proof.Machine
end

