-- ==== Sys2Proof/Laws/Fields.lean ====
section
/-! SUPPORT. The bit fields of the record and header formats in plain arithmetic (spec/30_encoding.md R90 to R95,
spec/42_header_decode.md R153), and what the interpretation of a record leaves alone. -/

namespace Sys2Proof.Machine

theorem recFlags_toNat (dif vif : Byte) :
    (recFlags dif vif).toNat = dif.toNat % 16 + 16 * (dif.toNat / 128) + 32 * (vif.toNat / 128) := by
  have h1 : (dif.extractLsb' 7 1).toNat = dif.toNat / 128 := by
    have := dif.isLt
    simp only [BitVec.extractLsb'_toNat, Nat.shiftRight_eq_div_pow]
    omega
  have h2 : (vif.extractLsb' 7 1).toNat = vif.toNat / 128 := by
    have := vif.isLt
    simp only [BitVec.extractLsb'_toNat, Nat.shiftRight_eq_div_pow]
    omega
  simp only [recFlags, BitVec.toNat_or, BitVec.toNat_shiftLeft, BitVec.toNat_setWidth, difCode_toNat, h1, h2,
    Nat.shiftLeft_eq]
  have key : ∀ x < 16, ∀ e < 2, ∀ v < 2,
      (x % 2 ^ 8 ||| e % 2 ^ 8 * 2 ^ 4 % 2 ^ 8 ||| v % 2 ^ 8 * 2 ^ 5 % 2 ^ 8) = x + 16 * e + 32 * v := by decide
  rcases byte_top dif with h | h <;> rcases byte_top vif with h' | h' <;>
    exact key _ (Nat.mod_lt _ (by decide)) _ (by omega) _ (by omega)

theorem storageNumber_toNat (dif dife : Byte) :
    (storageNumber dif dife).toNat = dif.toNat / 64 % 2 + 2 * (dife.toNat % 16) := by
  simp only [storageNumber, BitVec.toNat_or, BitVec.toNat_shiftLeft, BitVec.toNat_setWidth, BitVec.extractLsb'_toNat,
    Nat.shiftRight_eq_div_pow, Nat.shiftLeft_eq]
  have key : ∀ x < 2, ∀ y < 16, (x % 2 ^ 8 ||| y % 2 ^ 8 * 2 ^ 1 % 2 ^ 8) = x + 2 * y := by decide
  have := key (dif.toNat / 64 % 2) (Nat.mod_lt _ (by decide)) (dife.toNat % 16) (Nat.mod_lt _ (by decide))
  simpa using this

theorem manufLetter_toNat (g : BitVec 5) : (manufLetter g).toNat = 64 + g.toNat := by
  revert g
  decide

theorem manufTag_toNat (m : Half) : (manufTag m).toNat =
    (64 + m.toNat / 1024 % 32) * 65536 + (64 + m.toNat / 32 % 32) * 256 + (64 + m.toNat % 32) := by
  simp only [manufTag, BitVec.toNat_append, manufLetter_toNat, BitVec.extractLsb'_toNat, Nat.shiftRight_eq_div_pow]
  rw [← Nat.shiftLeft_add_eq_or_of_lt (by omega), ← Nat.shiftLeft_add_eq_or_of_lt (by omega)]
  simp only [Nat.shiftLeft_eq]
  omega

theorem compactYear_toNat (lo hi : Byte) : (compactYear lo hi).toNat =
    2000 + ((lo.toNat >>> 5) ||| ((hi.toNat &&& 0xF0) >>> 1)) := by
  have hb : ((lo.toNat >>> 5) ||| ((hi.toNat &&& 0xF0) >>> 1)) < 2 ^ 7 := by
    refine Nat.or_lt_two_pow ?_ ?_
    · have := lo.isLt
      rw [Nat.shiftRight_eq_div_pow]
      omega
    · have : hi.toNat &&& 0xF0 ≤ 0xF0 := Nat.and_le_right
      rw [Nat.shiftRight_eq_div_pow]
      omega
  simp only [compactYear, yearBase, BitVec.toNat_add, BitVec.toNat_or, BitVec.toNat_setWidth, BitVec.toNat_ushiftRight,
    BitVec.toNat_and, BitVec.toNat_ofNat]
  have h1 : lo.toNat >>> 5 % 2 ^ 16 = lo.toNat >>> 5 := Nat.mod_eq_of_lt (by
    have := lo.isLt
    rw [Nat.shiftRight_eq_div_pow]
    omega)
  have h2 : (hi.toNat &&& 240 % 2 ^ 8) >>> 1 % 2 ^ 16 = (hi.toNat &&& 0xF0) >>> 1 := Nat.mod_eq_of_lt (by
    have : (hi.toNat &&& 240 % 2 ^ 8) ≤ 240 := Nat.and_le_right
    rw [Nat.shiftRight_eq_div_pow]
    omega)
  rw [h1, h2]
  omega

/-- Byte `k` of a record's raw value is data byte `k`, for the four bytes the interpretation looks at. -/
theorem rawByte_toNat (rd : Nat → Byte) (q l k : Nat) (hk : k < l) (hl : l ≤ 8) :
    rawByte (BitVec.ofNat 64 (leValue (readBytes rd q l))) k = rd (q + k) := by
  have main : ∀ (l q k : Nat), k < l → leValue (readBytes rd q l) / 2 ^ (8 * k) % 256 = (rd (q + k)).toNat := by
    intro l
    induction l with
    | zero => intro q k h; omega
    | succ l ih =>
      intro q k h
      have hb := (rd q).isLt
      rw [readBytes, leValue]
      cases k with
      | zero => simp only [Nat.mul_zero, Nat.pow_zero, Nat.div_one, Nat.add_zero]; omega
      | succ k =>
        have := ih (q + 1) k (by omega)
        rw [show 8 * (k + 1) = 8 + 8 * k by omega, Nat.pow_add, ← Nat.div_div_eq_div_mul,
          show ((rd q).toNat + 256 * leValue (readBytes rd (q + 1) l)) / 2 ^ 8 = leValue (readBytes rd (q + 1) l) by
            omega, this]
        congr 2
        omega
  apply BitVec.eq_of_toNat_eq
  have hlt : leValue (readBytes rd q l) < 2 ^ 64 := by
    have h := leValue_lt (readBytes rd q l)
    rw [readBytes_length] at h
    have : 256 ^ l ≤ 256 ^ 8 := Nat.pow_le_pow_right (by decide) hl
    omega
  rw [rawByte, BitVec.extractLsb'_toNat, BitVec.toNat_ofNat, Nat.mod_eq_of_lt hlt, Nat.shiftRight_eq_div_pow]
  exact main l q k hk

/-- The interpretation writes REC_KIND and the value registers alone (R174). -/
theorem interpret_keeps (code : BitVec 4) (vif : Byte) (raw : Wide) (r : RecRegs) :
    interpret code vif raw r =
      { r with
        kind := (interpret code vif raw r).kind
        value := (interpret code vif raw r).value
        year := (interpret code vif raw r).year
        month := (interpret code vif raw r).month
        day := (interpret code vif raw r).day
        hour := (interpret code vif raw r).hour
        minute := (interpret code vif raw r).minute } := by
  unfold interpret
  repeat' split
  all_goals rfl

/-- The look of a WALK_NEXT, in the terms claims about the record at the cursor are stated in. -/
theorem State.walkFind_cursor (s : State) : walkFind s.payloadByte s.res.plen.toNat s.walk.off.toNat =
    if s.payloadLen ≤ s.cursor then .ended .endOfData
    else if 7 < s.cursorCode then .ended .reservedDfc
    else if s.payloadLen < s.cursorData + s.cursorLen then .ended .truncated
    else .record
      (recordOf s.payloadByte s.cursorDif (if s.cursorE = 1 then s.payloadByte (s.cursor + 1) else 0) s.cursorVif
        (if s.cursorV = 1 then s.payloadByte (s.cursor + 2 + s.cursorE) else 0) s.cursorData s.cursorLen)
      (s.cursorData + s.cursorLen) :=
  walkFind_eq s.payloadByte s.res.plen.toNat s.walk.off.toNat

theorem State.walkFind_fits {s : State} (h : s.cursorFits) :
    walkFind s.payloadByte s.res.plen.toNat s.walk.off.toNat =
      .record
        (recordOf s.payloadByte s.cursorDif (if s.cursorE = 1 then s.payloadByte (s.cursor + 1) else 0) s.cursorVif
          (if s.cursorV = 1 then s.payloadByte (s.cursor + 2 + s.cursorE) else 0) s.cursorData s.cursorLen)
        (s.cursorData + s.cursorLen) := by
  rw [s.walkFind_cursor, if_neg (Nat.not_le.2 h.1), if_neg (Nat.not_lt.2 h.2.1), if_neg (Nat.not_lt.2 h.2.2)]

/-- A record's look reads no payload byte at or past `n` (R170). -/
theorem walkFind_congr {rd rd' : Nat → Byte} {n : Nat} (p : Nat) (h : ∀ k, k < n → rd' k = rd k) :
    walkFind rd' n p = walkFind rd n p := by
  rw [walkFind_eq, walkFind_eq]
  by_cases hp : n ≤ p
  · rw [if_pos hp, if_pos hp]
  rw [if_neg hp, if_neg hp, h p (by omega)]
  by_cases hc : 7 < (rd p).toNat % 16
  · rw [if_pos hc, if_pos hc]
  rw [if_neg hc, if_neg hc]
  simp only
  generalize ([0, 1, 2, 3, 4, 4, 6, 8] : List Nat).getD ((rd p).toNat % 16) 0 = l
  have short : ∀ (f : Nat → Byte), n ≤ p + 1 + (rd p).toNat / 128 →
      n < p + 2 + (rd p).toNat / 128 + (f (p + 1 + (rd p).toNat / 128)).toNat / 128 + l := fun f hq => by omega
  by_cases hq : n ≤ p + 1 + (rd p).toNat / 128
  · rw [if_pos (short rd' hq), if_pos (short rd hq)]
  rw [h (p + 1 + (rd p).toNat / 128) (by omega)]
  by_cases hd : n < p + 2 + (rd p).toNat / 128 + (rd (p + 1 + (rd p).toNat / 128)).toNat / 128 + l
  · rw [if_pos hd, if_pos hd]
  rw [if_neg hd, if_neg hd]
  have e1 : (if (rd p).toNat / 128 = 1 then rd' (p + 1) else 0) = if (rd p).toNat / 128 = 1 then rd (p + 1) else 0 := by
    split
    · rw [h (p + 1) (by omega)]
    · rfl
  have e2 : (if (rd (p + 1 + (rd p).toNat / 128)).toNat / 128 = 1 then rd' (p + 2 + (rd p).toNat / 128) else 0) =
      if (rd (p + 1 + (rd p).toNat / 128)).toNat / 128 = 1 then rd (p + 2 + (rd p).toNat / 128) else 0 := by
    split
    · rw [h (p + 2 + (rd p).toNat / 128) (by omega)]
    · rfl
  rw [e1, e2]
  congr 1
  rw [recordOf, recordOf, readBytes_congr fun k _ hk => h k (by omega)]

end Sys2Proof.Machine
end

