-- ==== Sys2Proof/Laws/Effects.lean ====
section
/-! SUPPORT. The inversion lemma of the command step: what each command can do, branch by branch, said once. A proof about
"any command" or "any next state" splits on `Effect` and need not unfold a meaning. -/

namespace Sys2Proof.Machine

/-- `Effect i s t`: the command `i`, run at `s`, leaves `t`; one constructor for each branch of each command, with the
conditions of that branch. -/
inductive Effect : Instr → State → State → Prop
  | buildsShort (s : State) : Effect .buildShort s
      (((s.setObuf (s.obuf.putBytes 0 (shortFrame s.ops.opC s.ops.opA))).setOlen 5#16).report false .ok)
  | buildsLong (s : State) (fits : s.ops.plen.toNat ≤ s.params.pbufSize) (short : s.ops.plen.toNat ≤ 252) :
      Effect .buildLong s
        (((s.setObuf (s.obuf.putBytes 0
          (longFrame s.ops.opC s.ops.opA s.ops.opCI s.payloadOperand))).setOlen (s.ops.plen + 9#16)).report false .ok)
  | buildTooBig (s : State) (big : s.params.pbufSize < s.ops.plen.toNat) :
      Effect .buildLong s ((s.setOlen 0).report true .operand)
  | buildTooLong (s : State) (fits : s.ops.plen.toNat ≤ s.params.pbufSize) (long : 252 < s.ops.plen.toNat) :
      Effect .buildLong s ((s.setOlen 0).report true .payloadTooLong)
  | sums (s : State) (fits : s.ops.plen.toNat ≤ s.params.pbufSize) :
      Effect .checksum s ((s.setResChk (sum8 s.payloadOperand)).report false .ok)
  | sumTooBig (s : State) (big : s.params.pbufSize < s.ops.plen.toNat) :
      Effect .checksum s ((s.setResChk 0).report true .operand)
  | acceptsShort (s : State) (fits : s.ops.ilen.toNat ≤ s.params.ibufSize)
      (pass : shortFrameError (s.bufByte .ibuf) s.ops.ilen.toNat = none) :
      Effect .validateShort s (s.accepted .short (shortFrameRes (s.bufByte .ibuf)))
  | acceptsLong (s : State) (fits : s.ops.ilen.toNat ≤ s.params.ibufSize)
      (pass : longFrameError (s.bufByte .ibuf) s.ops.ilen.toNat = none) :
      Effect .validateLong s (s.accepted .long (longFrameRes (s.bufByte .ibuf)))
  | acceptsAck (s : State) (fits : s.ops.ilen.toNat ≤ s.params.ibufSize)
      (pass : ackError (s.bufByte .ibuf) s.ops.ilen.toNat = none) :
      Effect .checkAck s (s.accepted .ack { ResRegs.zero with len := 1#16 })
  | rejects (i : Instr) (s : State) (e : ErrCode) (family : i = .validateShort ∨ i = .validateLong ∨ i = .checkAck)
      (code : e ∈ raisedBy i) (operand : e = .operand ↔ s.params.ibufSize < s.ops.ilen.toNat) :
      Effect i s (s.rejected e)
  | headerNoFrame (s : State) (kind : s.status.fkind ≠ .long) :
      Effect .decodeHeader s ((s.setHdr HdrRegs.zero).report true .state)
  | headerShort (s : State) (kind : s.status.fkind = .long) (short : s.res.plen.toNat < 12) :
      Effect .decodeHeader s ((s.setHdr HdrRegs.zero).report true .headerShort)
  | decodes (s : State) (kind : s.status.fkind = .long) (fits : 12 ≤ s.res.plen.toNat) :
      Effect .decodeHeader s ((s.setHdr s.headerFields).report false .ok)
  | startNoFrame (s : State) (kind : s.status.fkind ≠ .long) :
      Effect .walkStart s ((s.clearRec.setWalkActive false).report true .state)
  | starts (s : State) (kind : s.status.fkind = .long) :
      Effect .walkStart s
        (((s.clearRec.setWalk { off := s.ops.walkBase, reason := .none, index := 0 }).setWalkActive true).report false .ok)
  | nextNoWalk (s : State) (idle : s.status.walkActive = false) :
      Effect .walkNext s (s.clearRec.report true .state)
  | emits (s : State) (active : s.status.walkActive = true) (fits : s.cursorFits) :
      Effect .walkNext s
        ((s.clearRec.walkStep
          (.record
            (recordOf s.payloadByte s.cursorDif (if s.cursorE = 1 then s.payloadByte (s.cursor + 1) else 0) s.cursorVif
              (if s.cursorV = 1 then s.payloadByte (s.cursor + 2 + s.cursorE) else 0) s.cursorData s.cursorLen)
            (s.cursorData + s.cursorLen))).report false .ok)
  | ends (s : State) (why : WalkReason) (active : s.status.walkActive = true) (real : why ≠ .none) :
      Effect .walkNext s ((s.clearRec.walkStep (.ended why)).report false .ok)

theorem shortFrameError_raised {rd : Nat → Byte} {len : Nat} {e : ErrCode} (h : shortFrameError rd len = some e) :
    e ∈ raisedBy .validateShort ∧ e ≠ .operand := by
  unfold shortFrameError at h
  repeat' split at h
  all_goals
    cases h
    try decide

theorem longFrameError_raised {rd : Nat → Byte} {len : Nat} {e : ErrCode} (h : longFrameError rd len = some e) :
    e ∈ raisedBy .validateLong ∧ e ≠ .operand := by
  unfold longFrameError at h
  repeat' split at h
  all_goals
    cases h
    try decide

theorem ackError_raised {rd : Nat → Byte} {len : Nat} {e : ErrCode} (h : ackError rd len = some e) :
    e ∈ raisedBy .checkAck ∧ e ≠ .operand := by
  unfold ackError at h
  repeat' split at h
  all_goals
    cases h
    try decide

/-- A validate-family command's effect, from the one lemma about their shape. -/
theorem validateWith_effect {i : Instr} {check : Option ErrCode} {res : ResRegs} {kind : FrameKind} {s : State}
    (family : i = .validateShort ∨ i = .validateLong ∨ i = .checkAck)
    (raised : ∀ e, check = some e → e ∈ raisedBy i ∧ e ≠ .operand)
    (pass : s.ops.ilen.toNat ≤ s.params.ibufSize → check = none → Effect i s (s.accepted kind res)) :
    ∃ t, validateWith check res kind s = .next t ∧ Effect i s t := by
  rcases validateWith_cases check res kind s with ⟨hb, h⟩ | ⟨hf, e, he, h⟩ | ⟨hf, hn, h⟩
  · refine ⟨_, h, .rejects i s .operand family ?_ (by simp [hb])⟩
    rcases family with rfl | rfl | rfl <;> decide
  · exact ⟨_, h, .rejects i s e family (raised e he).1 (by simp [(raised e he).2, hf])⟩
  · exact ⟨_, h, pass hf hn⟩

/-- Every command has one of the listed effects. -/
theorem exec_effect (i : Instr) (s : State) : ∃ t, exec i s = .next t ∧ Effect i s t := by
  cases i with
  | buildShort => exact ⟨_, rfl, .buildsShort s⟩
  | buildLong =>
    by_cases h : s.plenTooBig
    · exact ⟨_, execBuildLong_tooBig h, .buildTooBig s h⟩
    by_cases hn : maxPayload < s.ops.plen.toNat
    · exact ⟨_, execBuildLong_tooLong h hn, .buildTooLong s (Nat.le_of_not_lt h) hn⟩
    · exact ⟨_, execBuildLong_builds h hn, .buildsLong s (Nat.le_of_not_lt h) (Nat.le_of_not_lt hn)⟩
  | checksum =>
    by_cases h : s.plenTooBig
    · exact ⟨_, execChecksum_tooBig h, .sumTooBig s h⟩
    · exact ⟨_, execChecksum_sums h, .sums s (Nat.le_of_not_lt h)⟩
  | validateShort => exact validateWith_effect (by simp) (fun _ => shortFrameError_raised) (.acceptsShort s)
  | validateLong => exact validateWith_effect (by simp) (fun _ => longFrameError_raised) (.acceptsLong s)
  | checkAck => exact validateWith_effect (by simp) (fun _ => ackError_raised) (.acceptsAck s)
  | decodeHeader =>
    by_cases h : s.status.fkind = .long
    · by_cases hn : s.res.plen.toNat < headerSize
      · exact ⟨_, execDecodeHeader_short h hn, .headerShort s h hn⟩
      · exact ⟨_, execDecodeHeader_decodes h hn, .decodes s h (Nat.le_of_not_lt hn)⟩
    · exact ⟨_, execDecodeHeader_noFrame h, .headerNoFrame s h⟩
  | walkStart =>
    by_cases h : s.status.fkind = .long
    · exact ⟨_, execWalkStart_starts h, .starts s h⟩
    · exact ⟨_, execWalkStart_noFrame h, .startNoFrame s h⟩
  | walkNext =>
    cases h : s.status.walkActive with
    | false => exact ⟨_, execWalkNext_noWalk h, .nextNoWalk s h⟩
    | true =>
      refine ⟨_, execWalkNext_looks h, ?_⟩
      rw [s.walkFind_cursor]
      by_cases h1 : s.payloadLen ≤ s.cursor
      · rw [if_pos h1]
        exact .ends s _ h (by decide)
      by_cases h2 : 7 < s.cursorCode
      · rw [if_neg h1, if_pos h2]
        exact .ends s _ h (by decide)
      by_cases h3 : s.payloadLen < s.cursorData + s.cursorLen
      · rw [if_neg h1, if_neg h2, if_pos h3]
        exact .ends s _ h (by decide)
      · rw [if_neg h1, if_neg h2, if_neg h3]
        exact .emits s h ⟨Nat.lt_of_not_le h1, Nat.le_of_not_lt h2, Nat.le_of_not_lt h3⟩

/-- What a command's next state tells: one of the listed effects. -/
theorem effect_of_exec {i : Instr} {s t : State} (h : exec i s = .next t) : Effect i s t := by
  obtain ⟨u, hu, e⟩ := exec_effect i s
  rw [h] at hu
  cases hu
  exact e

/-- No command writes an operand register, a byte of IBUF or PBUF, a parameter, or the model's own fields (R26 to R29, R38). -/
theorem exec_keeps_inputs {i : Instr} {s t : State} (h : exec i s = .next t) :
    t.params = s.params ∧ t.ops = s.ops ∧ t.epoch = s.epoch ∧ t.ibuf = s.ibuf ∧ t.pbuf = s.pbuf ∧ t.host = s.host := by
  cases effect_of_exec h <;> simp [State.accepted, State.rejected, State.walkStep, State.clearRec]

end Sys2Proof.Machine
end

