-- ==== Sys2Proof/Laws/Events.lean ====
section
/-! SUPPORT. The laws of the bus events: what a run of byte writes leaves, and that runs of events compose. -/

namespace Sys2Proof.Machine

/-- Everything a host write of a buffer byte can do (R39, R62). -/
theorem State.hostWriteByte_cases (s : State) (b : Buf) (i : Nat) (v : Byte) :
    s.hostWriteByte b i v = s ∨
    (b = .ibuf ∧ i < s.params.ibufSize ∧ s.hostWriteByte b i v = (s.setIbuf (s.ibuf.put i v)).invalidate) ∨
    (b = .pbuf ∧ i < s.params.pbufSize ∧ s.hostWriteByte b i v = s.setPbuf (s.pbuf.put i v)) := by
  by_cases h : i < s.bufSize b
  · cases b with
    | ibuf => exact .inr (.inl ⟨rfl, h, if_pos h⟩)
    | pbuf => exact .inr (.inr ⟨rfl, h, if_pos h⟩)
    | obuf => exact .inl (if_pos h)
  · exact .inl (if_neg h)

/-- Everything a host write of a register can do, the command of a CMD write apart (R24, R28, R39). -/
theorem State.writeReg_cases (s : State) (r : Reg) (v : Wide) :
    s.writeReg r v = s ∨
    (r = .ilen ∧ s.writeReg r v = (s.setOps { s.ops with ilen := v.setWidth 16 }).invalidate) ∨
    (r ≠ .ilen ∧ (s.writeReg r v).ops.ilen = s.ops.ilen ∧ s.writeReg r v = s.setOps (s.writeReg r v).ops) := by
  cases r
  case ilen => exact .inr (.inl ⟨rfl, rfl⟩)
  all_goals first | exact .inl rfl | exact .inr (.inr ⟨by decide, rfl, rfl⟩)

theorem runEvents_append (es fs : List BusEvent) (s : State) : runEvents (es ++ fs) s =
    match runEvents es s with
    | .next t => runEvents fs t
    | .fault r => .fault r
    | .refused r => .refused r := by
  induction es generalizing s with
  | nil => rfl
  | cons e es ih =>
    simp only [List.cons_append, runEvents]
    cases doEvent e s with
    | next t => exact ih t
    | fault r => rfl
    | refused r => rfl

/-- Byte writes to PBUF inside its size: PBUF takes the bytes, nothing else changes (R97's WB). -/
theorem runEvents_writePbuf (s : State) (i : Nat) (bs : List Byte) (h : i + bs.length ≤ s.params.pbufSize) :
    runEvents (writeBytesEvents .pbuf i bs) s = .next (s.setPbuf (s.pbuf.putBytes i bs)) := by
  induction bs generalizing s i with
  | nil => rfl
  | cons b bs ih =>
    simp only [List.length_cons] at h
    have hi : i < s.bufSize .pbuf := by show i < s.params.pbufSize; omega
    simp only [writeBytesEvents, runEvents, doEvent, State.hostWriteByte, if_pos hi]
    rw [ih _ _ (by simpa using by omega)]
    rfl

/-- Byte writes to IBUF inside its size: IBUF takes the bytes; one write or more invalidates the held frame (R39, R97). -/
theorem runEvents_writeIbuf (s : State) (i : Nat) (bs : List Byte) (h : i + bs.length ≤ s.params.ibufSize) :
    ∃ t, runEvents (writeBytesEvents .ibuf i bs) s = .next t ∧
      t.invalidate = (s.setIbuf (s.ibuf.putBytes i bs)).invalidate ∧ t.ops = s.ops ∧ (bs ≠ [] → t.invalidate = t) := by
  induction bs generalizing s i with
  | nil => exact ⟨s, rfl, rfl, rfl, by simp⟩
  | cons b bs ih =>
    simp only [List.length_cons] at h
    have hi : i < s.bufSize .ibuf := by show i < s.params.ibufSize; omega
    obtain ⟨t, h1, h2, h3, h4⟩ := ih ((s.setIbuf (s.ibuf.put i b)).invalidate) (i + 1) (by simpa using by omega)
    refine ⟨t, ?_, ?_, ?_, fun _ => ?_⟩
    · simpa only [writeBytesEvents, runEvents, doEvent, State.hostWriteByte, if_pos hi] using h1
    · rw [h2]; rfl
    · rw [h3]; rfl
    · cases bs with
      | nil =>
        simp only [writeBytesEvents, runEvents, Host.Outcome.next.injEq] at h1
        rw [← h1]; rfl
      | cons c cs => exact h4 (by simp)

/-- Of a run of byte writes only those below the size of the buffer count (R62). -/
theorem runEvents_writeBytes_take (s : State) (b : Buf) (i : Nat) (bs : List Byte) :
    runEvents (writeBytesEvents b i bs) s = runEvents (writeBytesEvents b i (bs.take (s.bufSize b - i))) s := by
  induction bs generalizing s i with
  | nil => simp
  | cons v vs ih =>
    by_cases h : i < s.bufSize b
    · obtain ⟨n, hn⟩ : ∃ n, s.bufSize b - i = n + 1 := ⟨s.bufSize b - i - 1, by omega⟩
      have hs : (s.hostWriteByte b i v).bufSize b = s.bufSize b := by
        rcases s.hostWriteByte_cases b i v with h | ⟨-, -, h⟩ | ⟨-, -, h⟩ <;> rw [h] <;> cases b <;> rfl
      rw [hn, List.take_succ_cons]
      simp only [writeBytesEvents, runEvents, doEvent]
      rw [ih, hs, show s.bufSize b - (i + 1) = n by omega]
    · have h0 : s.bufSize b - (i + 1) = 0 := by omega
      rw [show s.bufSize b - i = 0 by omega]
      simp only [writeBytesEvents, runEvents, doEvent, State.hostWriteByte, if_neg h, List.take_zero]
      rw [ih, h0]
      rfl

/-- OBUF takes no byte from the host (R62). -/
theorem runEvents_writeObuf (s : State) (i : Nat) (bs : List Byte) :
    runEvents (writeBytesEvents .obuf i bs) s = .next s := by
  induction bs generalizing i with
  | nil => rfl
  | cons b bs ih =>
    have h : s.hostWriteByte .obuf i b = s := by simp [State.hostWriteByte]
    simp only [writeBytesEvents, runEvents, doEvent, h]
    exact ih (i + 1)

/-- Loading bytes into IBUF and then ILEN, as LOADI and LOOP do (R97): the bytes, the length, an invalid frame, nothing
else. -/
theorem runEvents_loadIbuf (s : State) (bs : List Byte) (v : Wide) (h : bs.length ≤ s.params.ibufSize) :
    runEvents (writeBytesEvents .ibuf 0 bs ++ [.regWrite Reg.ilen.num v]) s =
      .next ((s.setIbuf (s.ibuf.putBytes 0 bs)).setOps { s.ops with ilen := v.setWidth 16 }).invalidate := by
  obtain ⟨t, h1, h2, h3, -⟩ := runEvents_writeIbuf s 0 bs (by omega)
  rw [runEvents_append, h1]
  show Host.Outcome.next ((t.setOps { t.ops with ilen := v.setWidth 16 }).invalidate) = _
  congr 1
  rw [h3]
  have : (t.setOps { s.ops with ilen := v.setWidth 16 }).invalidate =
      t.invalidate.setOps { s.ops with ilen := v.setWidth 16 } := rfl
  rw [this, h2]
  rfl

/-- Loading bytes into PBUF and then PLEN, as LOADP does (R97). -/
theorem runEvents_loadPbuf (s : State) (bs : List Byte) (v : Wide) (h : bs.length ≤ s.params.pbufSize) :
    runEvents (writeBytesEvents .pbuf 0 bs ++ [.regWrite Reg.plen.num v]) s =
      .next ((s.setPbuf (s.pbuf.putBytes 0 bs)).setOps { s.ops with plen := v.setWidth 16 }) := by
  rw [runEvents_append, runEvents_writePbuf s 0 bs (by omega)]
  rfl

/-- A load of any length: the bytes below the size of IBUF, the length, an invalid frame, nothing else. -/
theorem runEvents_loadIbuf_take (s : State) (bs : List Byte) (v : Wide) :
    runEvents (writeBytesEvents .ibuf 0 bs ++ [.regWrite Reg.ilen.num v]) s =
      .next ((s.setIbuf (s.ibuf.putBytes 0 (bs.take s.params.ibufSize))).setOps
        { s.ops with ilen := v.setWidth 16 }).invalidate := by
  rw [← runEvents_loadIbuf s _ v (by simp), runEvents_append, runEvents_append, runEvents_writeBytes_take]
  rfl

/-- A load of any length into PBUF. -/
theorem runEvents_loadPbuf_take (s : State) (bs : List Byte) (v : Wide) :
    runEvents (writeBytesEvents .pbuf 0 bs ++ [.regWrite Reg.plen.num v]) s =
      .next ((s.setPbuf (s.pbuf.putBytes 0 (bs.take s.params.pbufSize))).setOps
        { s.ops with plen := v.setWidth 16 }) := by
  rw [← runEvents_loadPbuf s _ v (by simp), runEvents_append, runEvents_append, runEvents_writeBytes_take]
  rfl

end Sys2Proof.Machine
end

