-- ==== Sys2Proof/Laws/Frames.lean ====
section
/-! SUPPORT. The laws of held and loaded frames: the bytes of IBUF and PBUF after a run of writes, the answers of the two
validators as equations, and what an accepted validation tells. -/

namespace Sys2Proof.Machine

/-! ## The buffers after a run of byte writes from index 0 -/

theorem State.ibuf_putBytes {s t : State} {bs : List Byte} (hp : t.params = s.params) (he : t.epoch = s.epoch)
    (hm : t.ibuf = s.ibuf.putBytes 0 bs) (h : bs.length ≤ s.params.ibufSize) :
    (∀ k v, bs[k]? = some v → t.bufByte .ibuf k = v) ∧ ∀ k, bs.length ≤ k → t.bufByte .ibuf k = s.bufByte .ibuf k := by
  refine ⟨fun k v hv => ?_, fun k hk => State.bufByte_of_get_eq hp he ?_⟩
  · obtain ⟨h1, h2⟩ := List.getElem?_eq_some_iff.1 hv
    refine State.bufByte_of_get (b := .ibuf) (by show k < t.params.ibufSize; rw [hp]; omega) ?_
    show t.ibuf.get k = some v
    rw [hm, ← h2]
    simpa using Memory.get_putBytes_inside s.ibuf 0 bs h1
  · show t.ibuf.get k = s.ibuf.get k
    rw [hm, Memory.get_putBytes_outside _ _ _ (by omega)]

theorem State.pbuf_putBytes {s t : State} {bs : List Byte} (hp : t.params = s.params) (he : t.epoch = s.epoch)
    (hm : t.pbuf = s.pbuf.putBytes 0 bs) (h : bs.length ≤ s.params.pbufSize) :
    (∀ k v, bs[k]? = some v → t.bufByte .pbuf k = v) ∧ ∀ k, bs.length ≤ k → t.bufByte .pbuf k = s.bufByte .pbuf k := by
  refine ⟨fun k v hv => ?_, fun k hk => State.bufByte_of_get_eq hp he ?_⟩
  · obtain ⟨h1, h2⟩ := List.getElem?_eq_some_iff.1 hv
    refine State.bufByte_of_get (b := .pbuf) (by show k < t.params.pbufSize; rw [hp]; omega) ?_
    show t.pbuf.get k = some v
    rw [hm, ← h2]
    simpa using Memory.get_putBytes_inside s.pbuf 0 bs h1
  · show t.pbuf.get k = s.pbuf.get k
    rw [hm, Memory.get_putBytes_outside _ _ _ (by omega)]

theorem State.holds_getElem? {s : State} {bs : List Byte} (h : s.holds bs) {k : Nat} {v : Byte}
    (hv : bs[k]? = some v) : s.bufByte .ibuf k = v := by
  obtain ⟨h1, h2⟩ := List.getElem?_eq_some_iff.1 hv
  rw [h.2 k h1, h2]

/-! ## The validators' answers -/

theorem execValidateShort_rejects {s : State} {e : ErrCode} (h : s.ops.ilen.toNat ≤ s.params.ibufSize)
    (he : shortFrameError (s.bufByte .ibuf) s.ops.ilen.toNat = some e) : execValidateShort s = .next (s.rejected e) := by
  rw [execValidateShort, he]
  exact validateWith_some h

theorem execValidateLong_rejects {s : State} {e : ErrCode} (h : s.ops.ilen.toNat ≤ s.params.ibufSize)
    (he : longFrameError (s.bufByte .ibuf) s.ops.ilen.toNat = some e) : execValidateLong s = .next (s.rejected e) := by
  rw [execValidateLong, he]
  exact validateWith_some h

theorem execValidateShort_accepts {s : State} (h : s.ops.ilen.toNat ≤ s.params.ibufSize)
    (hn : shortFrameError (s.bufByte .ibuf) s.ops.ilen.toNat = none) :
    execValidateShort s = .next (s.accepted .short (shortFrameRes (s.bufByte .ibuf))) := by
  rw [execValidateShort, hn]
  exact validateWith_none h

theorem execValidateLong_accepts {s : State} (h : s.ops.ilen.toNat ≤ s.params.ibufSize)
    (hn : longFrameError (s.bufByte .ibuf) s.ops.ilen.toNat = none) :
    execValidateLong s = .next (s.accepted .long (longFrameRes (s.bufByte .ibuf))) := by
  rw [execValidateLong, hn]
  exact validateWith_none h

/-- A VALIDATE_SHORT that reports OK passed every check. -/
theorem execValidateShort_ok {s t : State} (h : exec .validateShort s = .next t) (he : t.errcode = .ok) :
    s.ops.ilen.toNat ≤ s.params.ibufSize ∧ shortFrameError (s.bufByte .ibuf) s.ops.ilen.toNat = none ∧
      t = s.accepted .short (shortFrameRes (s.bufByte .ibuf)) := by
  cases effect_of_exec h with
  | acceptsShort _ fits pass => exact ⟨fits, pass, rfl⟩
  | rejects _ _ e _ code _ =>
    change e = .ok at he
    subst he
    exact absurd code (by decide)

/-- A VALIDATE_LONG that reports OK passed every check. -/
theorem execValidateLong_ok {s t : State} (h : exec .validateLong s = .next t) (he : t.errcode = .ok) :
    s.ops.ilen.toNat ≤ s.params.ibufSize ∧ longFrameError (s.bufByte .ibuf) s.ops.ilen.toNat = none ∧
      t = s.accepted .long (longFrameRes (s.bufByte .ibuf)) := by
  cases effect_of_exec h with
  | acceptsLong _ fits pass => exact ⟨fits, pass, rfl⟩
  | rejects _ _ e _ code _ =>
    change e = .ok at he
    subst he
    exact absurd code (by decide)

/-- The checksum byte of a frame, in plain arithmetic. -/
theorem eq_sum8_iff (rd : Nat → Byte) (x : Byte) (i n : Nat) :
    x = sum8 (readBytes rd i n) ↔ x.toNat = totalOf rd i n % 256 := by
  rw [← sum8_readBytes_toNat]
  exact ⟨fun h => h ▸ rfl, BitVec.eq_of_toNat_eq⟩

/-- The L bytes a long frame's checksum covers, when its bytes from offset 4 up to CHK are in place (R85, R103). -/
theorem readBytes_longFrame {rd : Nat → Byte} {c a ci : Byte} {p : List Byte}
    (g : ∀ k v, 4 ≤ k → k < p.length + 7 → (longFrame c a ci p)[k]? = some v → rd k = v) :
    readBytes rd 4 (p.length + 3) = c :: a :: ci :: p := by
  have := readBytes_eq (rd := rd) (i := 4) (bs := c :: a :: ci :: p) (fun k hk => ?_)
  · simpa using this
  · have hk' : k < p.length + 3 := by
      simp only [List.length_cons] at hk
      omega
    refine g _ _ (by omega) (by omega) ?_
    simp only [longFrame]
    rw [List.getElem?_append_left (by simpa using by omega), List.getElem?_append_right (by simp)]
    simp [List.getElem?_eq_getElem hk]

/-! ## A held long frame -/

/-- The payload of a held long frame lies below ILEN (R39, R129, R170). -/
theorem State.Inv.payload_below {s : State} (h : s.Inv) (hk : s.status.fkind = .long) :
    s.res.plen.toNat + 9 ≤ s.ops.ilen.toNat ∧ s.ops.ilen.toNat ≤ s.params.ibufSize := by
  have hh := h.held
  rw [State.heldFrameOk, hk] at hh
  obtain ⟨hi, hn, hr⟩ := hh
  obtain ⟨-, -, -, -, hL, hlen, -⟩ := (longFrameError_eq_none_iff _ _).1 hn
  have hp : s.res.plen = (longFrameRes (s.bufByte .ibuf)).plen := by
    rw [ResRegs.agrees, ResRegs.mk.injEq] at hr
    exact hr.2.2.2.2.2.2.1
  have : s.res.plen.toNat = (s.bufByte .ibuf 1).toNat - 3 := by
    rw [hp]
    have := (s.bufByte .ibuf 1).isLt
    simp only [longFrameRes, BitVec.toNat_ofNat]
    omega
  omega

/-- What FKIND promises depends on IBUF, ILEN, FKIND and the RES_* registers alone, RES_CHK apart (R39, R129). -/
theorem State.heldFrameOk_congr {s t : State} (hp : t.params = s.params) (he : t.epoch = s.epoch)
    (hm : t.ibuf = s.ibuf) (hl : t.ops.ilen = s.ops.ilen) (hr : t.res.agrees s.res)
    (hk : t.status.fkind = s.status.fkind) (h : s.heldFrameOk) : t.heldFrameOk := by
  have hb : t.bufByte .ibuf = s.bufByte .ibuf := funext fun i => State.bufByte_congr (b := .ibuf) hp he hm i
  have tr : ∀ r, s.res.agrees r → t.res.agrees r := fun r h => hr.trans h
  unfold State.heldFrameOk at *
  rw [hk, hb, hl, hp]
  split <;> simp_all

end Sys2Proof.Machine
end

