-- ==== Sys2Proof/Laws/PerInstr.lean ====
section
/-! SUPPORT. The family of statements made for each command as syntax: its table word. -/

namespace Sys2Proof.Laws.TableWord

/-- The command is well formed, its word lies in the opcode map's range (R81), names it through the host's numbering of the
table's bits, and is a word no other command has. -/
def Statement (i : Instr) : Prop :=
  i.wf = true ∧ (1 ≤ (encode i).toNat ∧ (encode i).toNat ≤ 9) ∧ decodeTableWord 8 (encode i).toNat = some i ∧
    ∀ j : Instr, encode j = encode i → j = i

theorem buildShort : Statement .buildShort := ⟨rfl, by decide, rfl, by intro j; cases j <;> decide⟩
theorem buildLong : Statement .buildLong := ⟨rfl, by decide, rfl, by intro j; cases j <;> decide⟩
theorem checksum : Statement .checksum := ⟨rfl, by decide, rfl, by intro j; cases j <;> decide⟩
theorem validateShort : Statement .validateShort := ⟨rfl, by decide, rfl, by intro j; cases j <;> decide⟩
theorem validateLong : Statement .validateLong := ⟨rfl, by decide, rfl, by intro j; cases j <;> decide⟩
theorem checkAck : Statement .checkAck := ⟨rfl, by decide, rfl, by intro j; cases j <;> decide⟩
theorem decodeHeader : Statement .decodeHeader := ⟨rfl, by decide, rfl, by intro j; cases j <;> decide⟩
theorem walkStart : Statement .walkStart := ⟨rfl, by decide, rfl, by intro j; cases j <;> decide⟩
theorem walkNext : Statement .walkNext := ⟨rfl, by decide, rfl, by intro j; cases j <;> decide⟩

end Sys2Proof.Laws.TableWord
end

