-- ==== Sys2Proof/Machine/Script.lean ====
section
/-! DEFINITION. The host script syntax as text (spec/30_encoding.md R97, spec/00_scope.md R9): one statement per line, `;`
starts a comment, mnemonics are case-insensitive. The step reads statements, not text; this file only turns the one into
the other. -/

namespace Sys2Proof.Machine

/-- The command mnemonics of R81. -/
def commandNames : List (String × Instr) :=
  [("BUILD_SHORT", .buildShort), ("BUILD_LONG", .buildLong), ("CHECKSUM", .checksum),
   ("VALIDATE_SHORT", .validateShort), ("VALIDATE_LONG", .validateLong), ("CHECK_ACK", .checkAck),
   ("DECODE_HEADER", .decodeHeader), ("WALK_START", .walkStart), ("WALK_NEXT", .walkNext)]

/-- The buffer names of R38. -/
def bufferNames : List (String × Buf) := [("IBUF", .ibuf), ("PBUF", .pbuf), ("OBUF", .obuf)]

/-- The register names of R23. -/
def registerNames : List (String × Reg) :=
  [("CMD", .cmd),
   ("OP_C", .opC),
   ("OP_A", .opA),
   ("OP_CI", .opCI),
   ("PLEN", .plen),
   ("ILEN", .ilen),
   ("WALK_BASE", .walkBase),
   ("STATUS", .status),
   ("ERRCODE", .errcode),
   ("OLEN", .olen),
   ("RES_LEN", .resLen),
   ("RES_C", .resC),
   ("RES_A", .resA),
   ("RES_CI", .resCI),
   ("RES_L", .resL),
   ("RES_POFF", .resPoff),
   ("RES_PLEN", .resPlen),
   ("RES_CHK", .resChk),
   ("HDR_SECADDR", .hdrSecAddr),
   ("HDR_MANUF", .hdrManuf),
   ("HDR_MTAG", .hdrMtag),
   ("HDR_VERSION", .hdrVersion),
   ("HDR_MEDIUM", .hdrMedium),
   ("HDR_ACCESS", .hdrAccess),
   ("HDR_STATUS", .hdrStatus),
   ("HDR_SIG", .hdrSig),
   ("WALK_OFF", .walkOff),
   ("WALK_REASON", .walkReason),
   ("REC_INDEX", .recIndex),
   ("REC_FLAGS", .recFlags),
   ("REC_DIF", .recDif),
   ("REC_DIFE", .recDife),
   ("REC_VIF", .recVif),
   ("REC_VIFE", .recVife),
   ("REC_STORAGE", .recStorage),
   ("REC_LEN", .recLen),
   ("REC_RAWOFF", .recRawOff),
   ("REC_RAW", .recRaw),
   ("REC_KIND", .recKind),
   ("REC_VALUE", .recValue),
   ("REC_YEAR", .recYear),
   ("REC_MONTH", .recMonth),
   ("REC_DAY", .recDay),
   ("REC_HOUR", .recHour),
   ("REC_MINUTE", .recMinute)]

/-- What a table of names gives a word. -/
def lookupName (table : List (String × α)) (word : List Char) : Option α :=
  (table.find? (fun row => row.1.toList = word)).map (fun row => row.2)

/-- The value of one digit; letters are already in capitals. -/
def digitValue (c : Char) : Option Nat :=
  if '0' ≤ c ∧ c ≤ '9' then some (c.toNat - '0'.toNat)
  else if 'A' ≤ c ∧ c ≤ 'F' then some (c.toNat - 'A'.toNat + 10)
  else none

/-- The value of a row of digits in a base, read onto `acc`; none where a digit is not of the base. -/
def digitsValue (base : Nat) (acc : Nat) : List Char → Option Nat
  | [] => some acc
  | c :: cs =>
    match digitValue c with
    | none => none
    | some d => if d < base then digitsValue base (acc * base + d) cs else none

/-- A number in the notation of R9: `0x` hexadecimal, `0b` binary, otherwise decimal. -/
def parseNumber (word : List Char) : Option Nat :=
  match word with
  | [] => none
  | '0' :: 'X' :: c :: cs => digitsValue 16 0 (c :: cs)
  | '0' :: 'B' :: c :: cs => digitsValue 2 0 (c :: cs)
  | c :: cs => digitsValue 10 0 (c :: cs)

/-- A byte of a byte list. DESIGN CHOICE (log entry 11), unsafe: one or two bare digits are hexadecimal, as the programs of
spec/95_test_vectors.md write bytes; a longer word is a number of R9. -/
def parseByte (word : List Char) : Option Byte :=
  let value := match word with
    | [a] => digitsValue 16 0 [a]
    | [a, b] => digitsValue 16 0 [a, b]
    | w => parseNumber w
  match value with
  | some v => if v < 256 then some (BitVec.ofNat 8 v) else none
  | none => none

/-- All the bytes of a byte list, or none if one does not read. -/
def parseBytes : List (List Char) → Option (List Byte)
  | [] => some []
  | w :: ws =>
    match parseByte w, parseBytes ws with
    | some b, some bs => some (b :: bs)
    | _, _ => none

/-- The words of a line, a comma a word of its own; `cur` holds the word being read, reversed. -/
def wordsOf (cur : List Char) : List Char → List (List Char)
  | [] => if cur.isEmpty then [] else [cur.reverse]
  | c :: cs =>
    if c = ' ' ∨ c = '\t' then (if cur.isEmpty then wordsOf [] cs else cur.reverse :: wordsOf [] cs)
    else if c = ',' then (if cur.isEmpty then [','] :: wordsOf [] cs else cur.reverse :: [','] :: wordsOf [] cs)
    else wordsOf (c.toUpper :: cur) cs

/-- The statement a line's words make (R97). -/
def parseWords (words : List (List Char)) : Option HostStmt :=
  match words with
  | [] => none
  | op :: args =>
    if op = "CMD".toList then
      match args with
      | [m] => (lookupName commandNames m).map .cmd
      | _ => none
    else if op = "WR".toList then
      match args with
      | [r, [','], v] =>
        match lookupName registerNames r, parseNumber v with
        | some r, some v => some (.wr r v)
        | _, _ => none
      | _ => none
    else if op = "WB".toList then
      match args with
      | b :: [','] :: i :: [','] :: bytes =>
        match lookupName bufferNames b, parseNumber i, parseBytes bytes with
        | some b, some i, some bytes => some (.wb b i bytes)
        | _, _, _ => none
      | _ => none
    else if op = "RD".toList then
      match args with
      | [r] => (lookupName registerNames r).map .rd
      | _ => none
    else if op = "RB".toList then
      match args with
      | [b, [','], i, [','], n] =>
        match lookupName bufferNames b, parseNumber i, parseNumber n with
        | some b, some i, some n => some (.rb b i n)
        | _, _, _ => none
      | _ => none
    else if op = "LOADI".toList then (parseBytes args).map .loadi
    else if op = "LOADP".toList then (parseBytes args).map .loadp
    else if op = "LOOP".toList then (if args.isEmpty then some .loop else none)
    else none

/-- One line of a script: its words up to a `;`. -/
def lineWords (line : String) : List (List Char) := wordsOf [] (line.toList.takeWhile (fun c => c ≠ ';'))

/-- A script of lines as well-formed statements, blank and comment lines left out; none if a line does not read (R97). -/
def parseScript : List String → Option (List HostStmt)
  | [] => some []
  | line :: rest =>
    if (lineWords line).isEmpty then parseScript rest
    else
      match parseWords (lineWords line), parseScript rest with
      | some st, some sts => if st.wf then some (st :: sts) else none
      | _, _ => none

/-- `s` with the host about to run a script (R97, R237; log entry 1). -/
def State.loadScript (s : State) (script : List HostStmt) : State :=
  s.setHost { s.host with script := s.host.script ++ script }

end Sys2Proof.Machine
end

