-- ==== Sys2Proof/Tests/Slice0.lean ====
section
/-! SUPPORT. The model's own tests: the well-formedness checks, the command words written out bit by bit from
spec/30_encoding.md R81, vectors of spec/95_test_vectors.md (each named by its id), and for every statement with hypotheses
a witness that meets them, clause by clause. -/

namespace Sys2Proof.Tests

open Sys2Proof Sys2Proof.Machine

/-! ## Helpers -/

/-- Bytes as buffer cells from an index on. -/
def cells (i : Nat) : List Byte → Memory
  | [] => []
  | b :: bs => (i, b) :: cells (i + 1) bs

/-- The reset state with IBUF holding exactly `bytes`. -/
def loaded (bytes : List Byte) : State :=
  { State.reset with
    ops := { State.reset.ops with ilen := BitVec.ofNat 16 bytes.length }
    ibuf := cells 0 bytes }

/-- The reset state with the operands of a build and PBUF holding exactly `bytes`. -/
def building (c a ci : Byte) (bytes : List Byte) : State :=
  { State.reset with
    ops := { State.reset.ops with opC := c, opA := a, opCI := ci, plen := BitVec.ofNat 16 bytes.length }
    pbuf := cells 0 bytes }

/-- The reset state with PLEN and the size of PBUF set. -/
def sized (plen : Half) (pbufSize : Nat) : State :=
  { State.reset with params := { ibufSize := 261, pbufSize := pbufSize }, ops := { State.reset.ops with plen := plen } }

/-- The reset state with ILEN one above the size of IBUF. -/
def overlong : State := { State.reset with ops := { State.reset.ops with ilen := 262 } }

/-- A long frame with checksum byte `chk` around a payload, C, A and CI as in the spec's response vectors. -/
def response (chk : Byte) (payload : List Byte) : List Byte :=
  [0x68, BitVec.ofNat 8 (payload.length + 3), BitVec.ofNat 8 (payload.length + 3), 0x68, 0x08, 0x00, 0x72] ++ payload ++
    [chk, 0x16]

/-- A long frame held valid, its RES_* registers written out, and a walk of it at offset `off`, active or not. -/
def held (chk : Byte) (payload : List Byte) (active : Bool) (off : Half) : State :=
  { loaded (response chk payload) with
    status := { err := false, walkActive := active, recValid := false, fkind := .long }
    res :=
      { len := BitVec.ofNat 16 (payload.length + 9), c := 0x08, a := 0x00, ci := 0x72
        l := BitVec.ofNat 8 (payload.length + 3), poff := 7, plen := BitVec.ofNat 16 payload.length, chk := chk }
    walk := { off := off, reason := .none, index := 0 } }

/-- The header bytes `hdr` of the vectors. -/
def hdr : List Byte := [0xEE, 0xFF, 0xC0, 0x20, 0xFA, 0x12, 0x02, 0x07, 0x03, 0x00, 0x00, 0x00]

/-- B-L1's frame, `F1` of the vectors. -/
def f1 : List Byte := [0x68, 0x06, 0x06, 0x68, 0x53, 0xFE, 0x51, 0x01, 0x02, 0x03, 0xA8, 0x16]

/-- What a result's next state shows. -/
def out (r : Result) (f : State → α) : Option α :=
  match r with
  | .next t => some (f t)
  | .fault _ => none
  | .refused _ => none

/-- STATUS and ERRCODE as the host reads them. -/
def report (t : State) : Byte × Byte := (t.status.toByte, t.errcode.code)

/-! ## Well-formedness: each check refuses an ill-formed term -/

theorem test_wf_wr_too_wide : (HostStmt.wr .opC (2 ^ 64)).wf = false ∧ (HostStmt.wr .opC (2 ^ 64 - 1)).wf = true := by decide

theorem test_wf_wb_empty : (HostStmt.wb .ibuf 0 []).wf = false ∧ (HostStmt.wb .ibuf 0 [0x00]).wf = true := by decide

theorem test_wf_loadi_too_long : (HostStmt.loadi (List.replicate (2 ^ 16) 0)).wf = false := by
  simp only [HostStmt.wf, List.length_replicate]; decide

theorem test_wf_loadp_too_long : (HostStmt.loadp (List.replicate (2 ^ 16) 0)).wf = false := by
  simp only [HostStmt.wf, List.length_replicate]; decide

/-! ## Decoding: the words of R81, bit by bit, and their neighbours -/

theorem test_decode_buildShort : decode 0b00000001#8 = .ok .buildShort := by rfl
theorem test_decode_buildLong : decode 0b00000010#8 = .ok .buildLong := by rfl
theorem test_decode_checksum : decode 0b00000011#8 = .ok .checksum := by rfl
theorem test_decode_validateShort : decode 0b00000100#8 = .ok .validateShort := by rfl
theorem test_decode_validateLong : decode 0b00000101#8 = .ok .validateLong := by rfl
theorem test_decode_checkAck : decode 0b00000110#8 = .ok .checkAck := by rfl
theorem test_decode_decodeHeader : decode 0b00000111#8 = .ok .decodeHeader := by rfl
theorem test_decode_walkStart : decode 0b00001000#8 = .ok .walkStart := by rfl
theorem test_decode_walkNext : decode 0b00001001#8 = .ok .walkNext := by rfl

theorem test_decode_rejects : decode 0b00000000#8 = .error (.illegalCommand 0x00) ∧
    decode 0b00001010#8 = .error (.illegalCommand 0x0A) ∧ decode 0b10000001#8 = .error (.illegalCommand 0x81) ∧
    decode 0b11111111#8 = .error (.illegalCommand 0xFF) := by exact ⟨rfl, rfl, rfl, rfl⟩

theorem test_table_word : decodeTableWord 8 0x09 = some .walkNext ∧ decodeTableWord 8 0x0A = none ∧
    decodeTableWord 8 0x109 = none := by decide

theorem test_fetched_word_runs : out (step (State.reset.withFetchWord 8 0x01)) (fun t => (t.ops.cmd, t.olen)) =
    some (0x01#8, 5#16) := by decide

/-! ## Builds (vectors B-S4, B-L1, B-L6, B-L7, K3, K5) -/

theorem test_buildShort_wraps : out (exec .buildShort (building 0xFF 0xFF 0 []))
    (fun t => (readBytes (t.bufByte .obuf) 0 5, t.olen, report t)) =
    some ([0x10, 0xFF, 0xFF, 0xFE, 0x16], 5#16, 0x00#8, 0x00#8) := by decide

theorem test_buildLong_example : out (exec .buildLong (building 0x53 0xFE 0x51 [0x01, 0x02, 0x03]))
    (fun t => (readBytes (t.bufByte .obuf) 0 12, t.olen, report t)) = some (f1, 12#16, 0x00#8, 0x00#8) := by decide

theorem test_buildLong_limits :
    out (exec .buildLong (sized 253 252)) (fun t => (t.olen, report t)) = some (0#16, 0x01#8, 0x0A#8) ∧
    out (exec .buildLong (sized 253 256)) (fun t => (t.olen, report t)) = some (0#16, 0x01#8, 0x09#8) := by decide

theorem test_checksum_wraps : out (exec .checksum (building 0 0 0 [0x80, 0x80])) (fun t => (t.res.chk, report t)) =
    some (0x00#8, 0x00#8, 0x00#8) := by decide

theorem test_checksum_operand : out (exec .checksum (sized 300 252)) (fun t => (t.res.chk, report t)) =
    some (0x00#8, 0x01#8, 0x0A#8) := by decide

/-! ## Validation (vectors V-S2, V-S8, V-L1, V-L6, V-A1, V-A2) -/

theorem test_validateShort_trailing : out (exec .validateShort (loaded [0x10, 0x5B, 0xFE, 0x59, 0x16, 0xAA, 0xBB]))
    (fun t => (report t, t.res)) = some ((0x20#8, 0x00#8),
      { len := 5, c := 0x5B, a := 0xFE, ci := 0, l := 0, poff := 0, plen := 0, chk := 0x59 }) := by decide

theorem test_validateShort_start_first : out (exec .validateShort (loaded [0x68, 0x5B, 0xFE, 0x59, 0x00])) report =
    some (0x01#8, 0x02#8) := by decide

theorem test_validateLong_example : out (exec .validateLong (loaded f1)) (fun t => (report t, t.res)) =
    some ((0x30#8, 0x00#8),
      { len := 12, c := 0x53, a := 0xFE, ci := 0x51, l := 6, poff := 7, plen := 3, chk := 0xA8 }) := by decide

theorem test_validateLong_length_first :
    out (exec .validateLong (loaded [0x69, 0x06, 0x07, 0x68, 0x53, 0xFE, 0x51, 0x01, 0x02, 0x03, 0xA8, 0x16])) report =
      some (0x01#8, 0x05#8) := by decide

theorem test_checkAck_marker : out (exec .checkAck (loaded [0xE5])) (fun t => (report t, t.res.len)) =
    some ((0x10#8, 0x00#8), 1#16) := by decide

theorem test_checkAck_exactly_one : out (exec .checkAck (loaded [0xE5, 0xE5])) report = some (0x01#8, 0x08#8) := by decide

/-! ## Header (vectors H2, H3, the tags of R153) -/

theorem test_decodeHeader_example : out (exec .decodeHeader (held 0x5F hdr false 0)) (fun t => (report t, t.hdr)) =
    some ((0x30#8, 0x00#8),
      { secAddr := 0x20C0FFEE, manuf := 0x12FA, mtag := 0x44575A, version := 0x02, medium := 0x07, access := 0x03
        status := 0x00, sig := 0x0000 }) := by decide

theorem test_decodeHeader_short : out (exec .decodeHeader (held 0x92 [0x04, 0x13, 0x01, 0x00, 0x00, 0x00] false 0))
    (fun t => (report t, t.hdr)) = some ((0x31#8, 0x0C#8), HdrRegs.zero) := by decide

theorem test_manufTag : [0x12FA#16, 0x92FA#16, 0x0421#16, 0x0000#16, 0x7FFF#16].map manufTag =
    [0x44575A#24, 0x44575A#24, 0x414141#24, 0x404040#24, 0x5F5F5F#24] := by decide

/-! ## The walker (vectors W-M0, X4, W-M1, W-C4, W-M5's end, W-T2) -/

theorem test_walkStart_at_base : out (exec .walkStart (held 0x5F hdr false 5)) (fun t => (report t, t.walk.off)) =
    some ((0x32#8, 0x00#8), 12#16) := by decide

theorem test_walkStart_needs_frame : out (exec .walkStart State.reset) report = some (0x01#8, 0x0B#8) := by decide

theorem test_walkNext_datetime :
    out (exec .walkNext (held 0x00 [0x04, 0x6D, 0x1E, 0x0C, 0x0A, 0x31] true 0))
      (fun t => (report t, t.walk.off, t.walk.index, t.record)) =
    some ((0x36#8, 0x00#8), 6#16, 1#16,
      { flags := 0x04, dif := 0x04, dife := 0, vif := 0x6D, vife := 0, storage := 0, len := 4, rawOff := 2
        raw := 0x310A0C1E, kind := .datetime, value := 0, year := 2024, month := 1, day := 10, hour := 12
        minute := 30 }) := by decide

theorem test_walkNext_extensions :
    out (exec .walkNext (held 0x00 [0xC7, 0x8F, 0x80, 0xFF, 0x01, 0x02, 0x03, 0x04, 0x05, 0x06, 0x07, 0x08] true 0))
      (fun t => (t.walk.off, t.record)) =
    some (12#16,
      { flags := 0x37, dif := 0xC7, dife := 0x8F, vif := 0x80, vife := 0xFF, storage := 31, len := 8, rawOff := 4
        raw := 0x0807060504030201, kind := .raw, value := 0, year := 0, month := 0, day := 0, hour := 0
        minute := 0 }) := by decide

/-! ## Accesses and scripts (vectors X3, X6, the byte notation of spec/95_test_vectors.md) -/

theorem test_illegal_keeps_walk : out (doEvent (.regWrite 0x00 0x0A) (held 0x5F hdr true 12)) report =
    some (0x33#8, 0x0D#8) := by decide

theorem test_ibuf_write_invalidates : out (doEvent (.bufWrite .ibuf 50 0x00) (held 0x5F hdr true 12)) report =
    some (0x00#8, 0x00#8) := by decide

/-- W-M0's STATUS, read over the bus. -/
theorem test_status_read : out (doEvent (.regRead 0x10) (held 0x5F hdr true 12)) (fun t => t.host.reads) =
    some [0x32#64] := by decide

/-- R97, R62: a three-byte WB over the end of PBUF, and the read of it. -/
theorem test_write_and_read_statements :
    out (runEvents (State.reset.expand (.wb .pbuf 250 [0xAA, 0xBB, 0xCC])) State.reset)
      (fun t => out (runEvents (t.expand (.rb .pbuf 250 3)) t) (fun u => u.host.reads)) =
    some (some [0x00#64, 0xBB#64, 0xAA#64]) := by decide

theorem test_script_text : parseScript ["; a comment", "wr OP_C, 0x5B", "LOADI 10 5b", "RB OBUF, 0, 5 ; read", "cmd Check_Ack"]
    = some [.wr .opC 0x5B, .loadi [0x10, 0x5B], .rb .obuf 0 5, .cmd .checkAck] := by decide

/-! ## Witnesses: states and operands that meet the hypotheses of each statement with any, clause by clause, at the ends of
each range -/

theorem witness_DecodeInvertsEncode : Instr.walkNext.wf = true ∧ decode 0x09#8 = .ok .walkNext := ⟨rfl, rfl⟩

theorem witness_RegisterNumbersAreUnique : Reg.ofNum 0x00#8 = some .cmd ∧ Reg.ofNum 0x42#8 = some .recMinute := by decide

theorem witness_StepTakesTheNextEvent : (State.reset.withCommand 9).host.pending = .regWrite 0x00#8 9#64 :: [] ∧
    (State.reset.loadScript [.loop]).host.pending = [] ∧ (State.reset.loadScript [.loop]).host.script = .loop :: [] :=
  ⟨rfl, rfl, rfl⟩

theorem witness_StepRunsTheWrittenCommand : (State.reset.withCommand 0x109).host.pending = [.regWrite 0x00#8 0x109#64] ∧
    decode ((0x109#64).setWidth 8) = .ok .walkNext := ⟨rfl, rfl⟩

theorem witness_FetchedWordRunsNext : 9 < 256 ∧ decodeTableWord 8 9 = some .walkNext := by decide

theorem witness_IllegalCommandOnlyReports : ((0x100#64).setWidth 8 : Byte).toNat = 0 ∧
    10 ≤ ((0x0A#64).setWidth 8 : Byte).toNat ∧ 10 ≤ ((0xFF#64).setWidth 8 : Byte).toNat := by decide

theorem witness_RegisterAccessRules :
    (∀ n ∈ [0x07#8, 0xFF#8], 6 < n.toNat) ∧
    (∀ n ∈ [0x07#8, 0x0F#8, 0x1B#8, 0x1F#8, 0x28#8, 0x2F#8, 0x43#8, 0xFF#8], (6 < n.toNat ∧ n.toNat < 0x10) ∨
      (0x1A < n.toNat ∧ n.toNat < 0x20) ∨ (0x27 < n.toNat ∧ n.toNat < 0x30) ∨ 0x42 < n.toNat) ∧
    (∀ n ∈ [0x01#8, 0x03#8], 1 ≤ n.toNat ∧ n.toNat ≤ 3) ∧ (∀ n ∈ [0x04#8, 0x06#8], 4 ≤ n.toNat ∧ n.toNat ≤ 6) := by decide

theorem witness_OperandWritesChangeNothingElse :
    ∀ n ∈ [0x01#8, 0x04#8, 0x06#8], 1 ≤ n.toNat ∧ n.toNat ≤ 6 ∧ n ≠ 0x05#8 := by decide

theorem witness_HostWriteInvalidatesTheFrame : ∀ i ∈ [0, 260], i < (held 0x5F hdr true 12).params.ibufSize := by decide

theorem witness_AccessOutsideABufferIsIgnored :
    State.reset.bufSize .ibuf ≤ 261 ∧ State.reset.bufSize .pbuf ≤ 252 ∧ State.reset.bufSize .obuf ≤ 261 := by decide

theorem witness_PayloadWriteReadsBack : ∀ i ∈ [0, 251], i < State.reset.params.pbufSize := by decide

theorem witness_RegistersReadAsTheTableSays :
    (∀ n, (fun n : Byte => (State.reset.hostReadReg n).toNat) n = (State.reset.hostReadReg n).toNat) ∧ 6 ≤ 6 :=
  ⟨fun _ => rfl, Nat.le_refl 6⟩

theorem witness_ResetLeavesTheResetValues : (∃ t, doEvent .reset (held 0x5F hdr true 12) = .next t) ∧
    260 < State.reset.bufSize .ibuf ∧ 251 < State.reset.bufSize .pbuf ∧ 260 < State.reset.bufSize .obuf :=
  ⟨⟨_, rfl⟩, by decide⟩

theorem witness_IdleBlockWaits : State.reset.host.pending = [] ∧ State.reset.host.script = [] := ⟨rfl, rfl⟩

theorem witness_LoopStatementCopiesTheBuild :
    let s := { (State.reset.loadScript [.loop]) with olen := 261 };
    s.host.pending = [] ∧ s.host.script = [.loop] ∧ s.olen.toNat ≤ s.params.ibufSize := by decide

/-- The longest list, and its first byte, the last byte below each buffer's size, and the first index past the list. -/
theorem witness_LoadStatementsFillTheBuffers :
    (List.replicate 65535 (0 : Byte)).length < 2 ^ 16 ∧
    (∀ i ∈ [0, 260], i < (List.replicate 65535 (0 : Byte)).length ∧ i < State.reset.params.ibufSize) ∧
    (∀ i ∈ [0, 251], i < (List.replicate 65535 (0 : Byte)).length ∧ i < State.reset.params.pbufSize) ∧
    (List.replicate 65535 (0 : Byte)).length ≤ 65535 := by
  simp only [List.length_replicate]; decide

theorem witness_StatementsStandForTheirAccesses : ∀ k ∈ [0, 1], k < [0x10#8, 0x5B#8].length ∧ k < 2 := by decide

/-- A WB that runs over the end of each buffer: its last byte inside, the indices before and after it. -/
theorem witness_WriteStatementFillsTheBuffer :
    0 < [0xAA#8, 0xBB#8].length ∧ Buf.ibuf ≠ .obuf ∧ Buf.pbuf ≠ .obuf ∧ 260 + 0 < State.reset.bufSize .ibuf ∧
    251 + 0 < State.reset.bufSize .pbuf ∧ 259 < 260 ∧ 260 + [0xAA#8, 0xBB#8].length ≤ 262 := by decide

theorem witness_BuildLongResult :
    (let s := sized 253 252; s.params.pbufSize < s.ops.plen.toNat) ∧
    (let s := sized 253 253; s.ops.plen.toNat ≤ s.params.pbufSize ∧ 252 < s.ops.plen.toNat) ∧
    (let s := sized 252 252; s.ops.plen.toNat ≤ s.params.pbufSize ∧ s.ops.plen.toNat ≤ 252) := by decide

theorem witness_ChecksumResult :
    (let s := sized 253 252; s.params.pbufSize < s.ops.plen.toNat) ∧
    (let s := sized 252 252; s.ops.plen.toNat ≤ s.params.pbufSize) := by decide

theorem witness_BuildsNeverTouchTheHeldFrame :
    ∀ i ∈ [Instr.buildShort, .buildLong, .checksum], i = .buildShort ∨ i = .buildLong ∨ i = .checksum := by decide

/-- The hypotheses of the six clauses of ValidateShortChecksInOrder, each met in turn; the state of the second is a length
of 4, of the others a length of 5. -/
theorem witness_ValidateShortChecksInOrder :
    (overlong.params.ibufSize < overlong.ops.ilen.toNat) ∧
    (let s := loaded [0x10, 0x5B, 0xFE, 0x59]; s.ops.ilen.toNat ≤ s.params.ibufSize ∧ s.ops.ilen.toNat < 5) ∧
    (let s := loaded [0x11, 0x5B, 0xFE, 0x59, 0x16];
      s.ops.ilen.toNat ≤ s.params.ibufSize ∧ 5 ≤ s.ops.ilen.toNat ∧ s.bufByte .ibuf 0 ≠ 0x10#8) ∧
    (let s := loaded [0x10, 0x5B, 0xFE, 0x59, 0x17];
      s.ops.ilen.toNat ≤ s.params.ibufSize ∧ 5 ≤ s.ops.ilen.toNat ∧ s.bufByte .ibuf 0 = 0x10#8 ∧
        s.bufByte .ibuf 4 ≠ 0x16#8) ∧
    (let s := loaded [0x10, 0x5B, 0xFE, 0x5A, 0x16];
      s.ops.ilen.toNat ≤ s.params.ibufSize ∧ 5 ≤ s.ops.ilen.toNat ∧ s.bufByte .ibuf 0 = 0x10#8 ∧
        s.bufByte .ibuf 4 = 0x16#8 ∧
        (s.bufByte .ibuf 3).toNat ≠ ((s.bufByte .ibuf 1).toNat + (s.bufByte .ibuf 2).toNat) % 256) ∧
    (let s := loaded [0x10, 0x5B, 0xFE, 0x59, 0x16];
      s.ops.ilen.toNat ≤ s.params.ibufSize ∧ 5 ≤ s.ops.ilen.toNat ∧ s.bufByte .ibuf 0 = 0x10#8 ∧
        s.bufByte .ibuf 4 = 0x16#8 ∧
        (s.bufByte .ibuf 3).toNat = ((s.bufByte .ibuf 1).toNat + (s.bufByte .ibuf 2).toNat) % 256) := by decide

/-- The first checks of a long frame passed, up to the two START bytes, with its bytes at offset 1 equal. -/
abbrev longHead (s : State) : Prop :=
  s.ops.ilen.toNat ≤ s.params.ibufSize ∧ 9 ≤ s.ops.ilen.toNat ∧ s.bufByte .ibuf 1 = s.bufByte .ibuf 2 ∧
    s.bufByte .ibuf 0 = 0x68#8 ∧ s.bufByte .ibuf 3 = 0x68#8

/-- The checks up to the stop byte passed as well, for a frame of declared length `L`. -/
abbrev longBody (s : State) (L : Nat) : Prop :=
  longHead s ∧ (s.bufByte .ibuf 1).toNat = L ∧ 3 ≤ L ∧ L + 6 ≤ s.ops.ilen.toNat

/-- The hypotheses of the nine clauses of ValidateLongChecksInOrder, each met in turn (vectors V-L4 to V-L16); the frame of the
last has the smallest length, L = 3. -/
theorem witness_ValidateLongChecksInOrder :
    (overlong.params.ibufSize < overlong.ops.ilen.toNat) ∧
    (let s := loaded [0x68, 0x06, 0x06, 0x68, 0x53, 0xFE, 0x51, 0x01];
      s.ops.ilen.toNat ≤ s.params.ibufSize ∧ s.ops.ilen.toNat < 9) ∧
    (let s := loaded [0x68, 0x06, 0x07, 0x68, 0x53, 0xFE, 0x51, 0x01, 0x02, 0x03, 0xA8, 0x16];
      s.ops.ilen.toNat ≤ s.params.ibufSize ∧ 9 ≤ s.ops.ilen.toNat ∧ s.bufByte .ibuf 1 ≠ s.bufByte .ibuf 2) ∧
    (let s := loaded [0x68, 0x06, 0x06, 0x67, 0x53, 0xFE, 0x51, 0x01, 0x02, 0x03, 0xA8, 0x16];
      s.ops.ilen.toNat ≤ s.params.ibufSize ∧ 9 ≤ s.ops.ilen.toNat ∧ s.bufByte .ibuf 1 = s.bufByte .ibuf 2 ∧
        (s.bufByte .ibuf 0 ≠ 0x68#8 ∨ s.bufByte .ibuf 3 ≠ 0x68#8)) ∧
    (let s := loaded [0x68, 0x02, 0x02, 0x68, 0x00, 0x00, 0x00, 0x00, 0x16];
      longHead s ∧ (s.bufByte .ibuf 1).toNat < 3) ∧
    (let s := loaded [0x68, 0x06, 0x06, 0x68, 0x53, 0xFE, 0x51, 0x01, 0x02, 0x03, 0xA8];
      longHead s ∧ 3 ≤ (s.bufByte .ibuf 1).toNat ∧ s.ops.ilen.toNat < (s.bufByte .ibuf 1).toNat + 6) ∧
    (let s := loaded [0x68, 0x06, 0x06, 0x68, 0x53, 0xFE, 0x51, 0x01, 0x02, 0x03, 0xA8, 0x17];
      longBody s 6 ∧ s.bufByte .ibuf 11 ≠ 0x16#8) ∧
    (let s := loaded [0x68, 0x06, 0x06, 0x68, 0x53, 0xFE, 0x51, 0x01, 0x02, 0x03, 0xA9, 0x16];
      longBody s 6 ∧ s.bufByte .ibuf 11 = 0x16#8 ∧ (s.bufByte .ibuf 10).toNat ≠ totalOf (s.bufByte .ibuf) 4 6 % 256) ∧
    (let s := loaded [0x68, 0x03, 0x03, 0x68, 0x53, 0x00, 0x50, 0xA3, 0x16];
      longBody s 3 ∧ s.bufByte .ibuf 8 = 0x16#8 ∧ (s.bufByte .ibuf 7).toNat = totalOf (s.bufByte .ibuf) 4 3 % 256) := by
  decide

theorem witness_CheckAckWantsExactlyTheMarker :
    (overlong.params.ibufSize < overlong.ops.ilen.toNat) ∧
    (let s := loaded [0xE5, 0xE5]; s.ops.ilen.toNat ≤ s.params.ibufSize ∧ s.ops.ilen.toNat ≠ 1) ∧
    (let s := loaded [0xE6];
      s.ops.ilen.toNat ≤ s.params.ibufSize ∧ s.ops.ilen.toNat = 1 ∧ s.bufByte .ibuf 0 ≠ 0xE5#8) ∧
    (let s := loaded [0xE5];
      s.ops.ilen.toNat ≤ s.params.ibufSize ∧ s.ops.ilen.toNat = 1 ∧ s.bufByte .ibuf 0 = 0xE5#8) := by decide

/-- A failed validation by each of the three, and the operand failure. -/
theorem witness_FailedValidationLeavesNothing :
    (∀ i ∈ [Instr.validateShort, .validateLong, .checkAck],
      out (exec i (loaded [0x00])) (fun t => decide (t.errcode ≠ .ok)) = some true) ∧
    State.reset.params.ibufSize < (262#16).toNat := by decide

theorem witness_EmptyBufferFailsValidation : State.reset.ops.ilen = 0 := rfl

/-- Accepted frames, and states that hold them with other bytes after them. -/
theorem witness_TrailingBytesAreNotRead :
    (let s := loaded [0x10, 0x5B, 0xFE, 0x59, 0x16]; let s' := loaded [0x10, 0x5B, 0xFE, 0x59, 0x16, 0xAA]
      (∃ t, exec .validateShort s = .next t ∧ t.errcode = .ok) ∧ s'.ops.ilen.toNat ≤ s'.params.ibufSize ∧
        5 ≤ s'.ops.ilen.toNat ∧ ∀ i, i < 5 → s'.bufByte .ibuf i = s.bufByte .ibuf i) ∧
    (let s := loaded f1; let s' := loaded (f1 ++ [0xAA])
      (∃ t, exec .validateLong s = .next t ∧ t.errcode = .ok ∧ t.res.l.toNat + 6 ≤ s'.ops.ilen.toNat ∧
        ∀ i, i < t.res.l.toNat + 6 → s'.bufByte .ibuf i = s.bufByte .ibuf i) ∧
        s'.ops.ilen.toNat ≤ s'.params.ibufSize) :=
  ⟨⟨⟨_, rfl, by decide⟩, by decide, by decide, by decide⟩, ⟨_, rfl, by decide, by decide, by decide⟩, by decide⟩

theorem witness_HeldFrameOutlivesOtherCommands :
    Instr.walkNext ≠ .validateShort ∧ Instr.walkNext ≠ .validateLong ∧ Instr.walkNext ≠ .checkAck ∧
    decode ((0x0A#64).setWidth 8) = .error (.illegalCommand 0x0A) ∧
    (∀ i v, BusEvent.bufWrite .pbuf 0 0 ≠ .bufWrite .ibuf i v) ∧ (∀ v, BusEvent.bufWrite .pbuf 0 0 ≠ .regWrite 0x05#8 v) ∧
    (∀ v, BusEvent.bufWrite .pbuf 0 0 ≠ .regWrite 0x00#8 v) ∧ BusEvent.bufWrite .pbuf 0 0 ≠ .reset ∧
    ∃ t, doEvent (.bufWrite .pbuf 0 0) (held 0x5F hdr true 12) = .next t :=
  ⟨by decide, by decide, by decide, rfl, by simp, by simp, by simp, by simp, _, rfl⟩

theorem witness_ShortFrameRoundTrip : State.reset.params.ok := by decide

theorem witness_LongFrameRoundTrip : (sized 252 252).params.ok ∧ (sized 252 252).ops.plen.toNat ≤ 252 := by decide

theorem witness_CorruptedShortFrameIsRejected :
    (0x11#8 ≠ 0x10#8 ∧ (loaded [0x11, 0x5B, 0xFE, 0x59, 0x16]).holds ((shortFrame 0x5B 0xFE).set 0 0x11)) ∧
    (0x5A#8 ≠ 0x5B#8 + 0xFE#8 ∧ (loaded [0x10, 0x5B, 0xFE, 0x5A, 0x16]).holds ((shortFrame 0x5B 0xFE).set 3 0x5A)) ∧
    (0x17#8 ≠ 0x16#8 ∧ (loaded [0x10, 0x5B, 0xFE, 0x59, 0x17]).holds ((shortFrame 0x5B 0xFE).set 4 0x17)) ∧
    State.reset.params.ok := by
  unfold State.holds; decide

/-- The frames of vectors V-L7, V-L8, V-L13 and V-L12. -/
theorem witness_CorruptedLongFrameIsRejected :
    (loaded (f1.set 0 0x69)).holds ((longFrame 0x53 0xFE 0x51 [0x01, 0x02, 0x03]).set 0 0x69) ∧
    (loaded (f1.set 3 0x67)).holds ((longFrame 0x53 0xFE 0x51 [0x01, 0x02, 0x03]).set 3 0x67) ∧
    some 0xA9#8 ≠ (longFrame 0x53 0xFE 0x51 [0x01, 0x02, 0x03])[10]? ∧
    (loaded (f1.set 10 0xA9)).holds ((longFrame 0x53 0xFE 0x51 [0x01, 0x02, 0x03]).set 10 0xA9) ∧
    (loaded (f1.set 11 0x17)).holds ((longFrame 0x53 0xFE 0x51 [0x01, 0x02, 0x03]).set 11 0x17) := by
  unfold State.holds; decide

theorem witness_DecodeHeaderResult :
    State.reset.status.fkind ≠ .long ∧
    (let s := held 0x00 (hdr.take 11) false 0; s.status.fkind = .long ∧ s.res.plen.toNat < 12) ∧
    (let s := held 0x5F hdr false 0; s.status.fkind = .long ∧ 12 ≤ s.res.plen.toNat) := by decide

theorem witness_DecodeHeaderRepeats : ∃ u, exec .walkStart (held 0x5F hdr false 0) = .next u := ⟨_, rfl⟩

theorem witness_WalkStartResult : State.reset.status.fkind ≠ .long ∧ (held 0x5F hdr false 0).status.fkind = .long := by
  decide

/-- A record that ends exactly at the payload's end, with both extension bytes. -/
theorem witness_WalkNextEmitsTheRecord :
    let s := held 0x00 [0x84, 0x01, 0x93, 0x3C, 0x10, 0x27, 0x00, 0x00] true 0;
    s.status.walkActive = true ∧ s.cursorFits := by
  unfold State.cursorFits; decide

/-- A date-time, a counter, a date, a record of neither kind, and a code of 2 without the date's VIF; and a WALK_NEXT on the
first answers a next state. -/
theorem witness_WalkNextInterpretsTheRecord :
    ((let s := held 0x00 [0x04, 0x6D, 0x1E, 0x0C, 0x0A, 0x31] true 0;
      s.status.walkActive = true ∧ s.cursorFits ∧ s.cursorCode = 4 ∧ s.cursorVif = 0x6D#8) ∧
    (let s := held 0x00 [0x04, 0xED, 0x00, 0x01, 0x02, 0x03, 0x04] true 0;
      s.status.walkActive = true ∧ s.cursorFits ∧ s.cursorCode = 4 ∧ s.cursorVif ≠ 0x6D#8) ∧
    (let s := held 0x00 [0x42, 0x6C, 0xFF, 0x2C] true 0;
      s.status.walkActive = true ∧ s.cursorFits ∧ s.cursorCode = 2 ∧ s.cursorVif = 0x6C#8) ∧
    (let s := held 0x00 [0x05, 0x6D, 0x01, 0x02, 0x03, 0x04] true 0;
      s.status.walkActive = true ∧ s.cursorFits ∧ s.cursorCode ≠ 4 ∧ ¬(s.cursorCode = 2 ∧ s.cursorVif = 0x6C#8)) ∧
    (let s := held 0x00 [0x02, 0x6D, 0x01, 0x02] true 0;
      s.status.walkActive = true ∧ s.cursorFits ∧ s.cursorCode ≠ 4 ∧ ¬(s.cursorCode = 2 ∧ s.cursorVif = 0x6C#8))) ∧
    ∃ t, exec .walkNext (held 0x00 [0x04, 0x6D, 0x1E, 0x0C, 0x0A, 0x31] true 0) = .next t := by
  refine ⟨by unfold State.cursorFits; decide, ?_⟩
  obtain ⟨t, h, -⟩ := exec_effect .walkNext (held 0x00 [0x04, 0x6D, 0x1E, 0x0C, 0x0A, 0x31] true 0)
  exact ⟨t, h⟩

/-- The record at the cursor starts inside the payload, has a length, and does not fit. -/
abbrev cut (s : State) : Prop :=
  s.status.walkActive = true ∧ s.cursor < s.payloadLen ∧ s.cursorCode ≤ 7 ∧ s.payloadLen < s.cursorData + s.cursorLen

/-- An active walk whose cursor is at the payload's end or past it. -/
abbrev pastEnd (s : State) : Prop := s.status.walkActive = true ∧ s.payloadLen ≤ s.cursor

/-- An active walk whose cursor is at a DIF with a reserved data field code. -/
abbrev reservedCode (s : State) : Prop :=
  s.status.walkActive = true ∧ s.cursor < s.payloadLen ∧ 7 < s.cursorCode

/-- The cursor at the end and past it; the first reserved code and the last; a record cut at its DIFE, VIF, VIFE and data. -/
theorem witness_WalkNextEndsTheWalk :
    (pastEnd (held 0x5F hdr true 12#16) ∧ pastEnd (held 0x5F hdr true 0xFFFF#16)) ∧
    (reservedCode (held 0x00 [0x08] true 0) ∧ reservedCode (held 0x00 [0x0F] true 0)) ∧
    cut (held 0x00 [0x84] true 0) ∧ cut (held 0x00 [0x04] true 0) ∧ cut (held 0x00 [0x04, 0x93] true 0) ∧
    cut (held 0x00 [0x04, 0x13, 0x39, 0x30, 0x00] true 0) := by decide

theorem witness_WalkNextNeedsAWalk : (held 0x5F hdr false 12).status.walkActive = false := rfl

/-- Vector W-R1's payload, and an IBUF that has the same byte at WALK_BASE and other bytes elsewhere. -/
theorem witness_ReservedFirstRecordYieldsNothing :
    let s := held 0x71 (hdr ++ [0x0F, 0x01, 0x02]) false 0;
    s.status.fkind = .long ∧ s.ops.walkBase.toNat < s.res.plen.toNat ∧
      (s.payloadByte s.ops.walkBase.toNat).toNat % 16 = 15 ∧
      ({ s with ibuf := [(0, 0xAA#8), (19, 0x0F#8)] } : State).payloadByte s.ops.walkBase.toNat =
        s.payloadByte s.ops.walkBase.toNat := by decide

theorem witness_WalkReadsOnlyThePayload :
    let s := held 0x00 [0x02, 0x6C] true 0;
    s.ibuf ≠ [(0, 0xAA), (7, 0x02), (8, 0x6C), (9, 0xBB)] ∧ ∀ p, p < s.res.plen.toNat →
      ({ s with ibuf := [(0, 0xAA), (7, 0x02), (8, 0x6C), (9, 0xBB)] } : State).payloadByte p = s.payloadByte p := by decide

theorem witness_EveryWalkEnds : (held 0x5F hdr false 0).status.fkind = .long := rfl

theorem witness_WalkIsRestartable : (held 0x5F hdr true 12).status.fkind = .long := rfl

/-- A failing run of every command that has an error. -/
theorem witness_ErrorClearsOnlyItsFamily :
    (∀ i ∈ [Instr.buildLong, .checksum], out (exec i (sized 253 252)) (fun t => decide (t.errcode ≠ .ok)) = some true) ∧
    (∀ i ∈ [Instr.validateShort, .validateLong, .checkAck, .decodeHeader, .walkStart, .walkNext],
      out (exec i State.reset) (fun t => decide (t.errcode ≠ .ok)) = some true) := by decide

theorem witness_CommandsKeepTheirOperands : Instr.walkNext ≠ .buildShort ∧ Instr.walkNext ≠ .buildLong := by decide

theorem witness_ResultsBelongToTheirFamily : ∃ t, exec .checksum State.reset = .next t := ⟨_, rfl⟩

/-- A state in the middle of a walk that meets the invariant: a held long frame and an active walk. -/
theorem witness_Inv : (held 0x5F hdr true 12).Inv where
  sizes := by decide
  ibuf := by decide
  pbuf := by decide
  obuf := by decide
  report := by decide
  olen := by decide
  held := ⟨by decide, by decide, by unfold ResRegs.agrees; decide⟩
  walking := by decide
  recording := by decide

/-- That state, and an IBUF and a PBUF that differ from its own above ILEN and PLEN alone. -/
theorem witness_CommandsReadOnlyGivenBytes :
    let s := held 0x5F hdr true 12;
    s.Inv ∧
    (∀ k, k < s.ops.ilen.toNat → ({ s with ibuf := s.ibuf.put 200 0xAA } : State).bufByte .ibuf k = s.bufByte .ibuf k) ∧
    (∀ k, k < s.ops.plen.toNat → ({ s with pbuf := s.pbuf.put 0 0xAA } : State).bufByte .pbuf k = s.bufByte .pbuf k) :=
  ⟨witness_Inv, by decide⟩

/-- That state with a command to come; the invariant does not look at the queue. -/
theorem witness_StepKeepsTheInvariant :
    ((held 0x5F hdr true 12).withCommand 9).Inv ∧ ∃ t, step ((held 0x5F hdr true 12).withCommand 9) = .next t :=
  ⟨{ witness_Inv with held := witness_Inv.held }, _, rfl⟩

theorem witness_SizesNeverChange : ∃ t, step ((sized 3 300).withCommand 3) = .next t := ⟨_, rfl⟩

end Sys2Proof.Tests
end

section
/-! SUPPORT. The inversion lemma of a host register write, and the parameters under each event of the bus. -/

namespace Sys2Proof.Machine

/-- Everything a host write to a register number can do (R24, R25, R205). -/
theorem hostWriteReg_cases {s t : State} {num : Byte} {v : Wide} (h : hostWriteReg s num v = .next t) :
    (Reg.ofNum num = none ∧ t = s) ∨
    (∃ r, Reg.ofNum num = some r ∧ r ≠ .cmd ∧ t = s.writeReg r v) ∨
    (∃ i, Reg.ofNum num = some .cmd ∧ decode (v.setWidth 8) = .ok i ∧ exec i (s.writeReg .cmd v) = .next t) ∨
    (∃ e, Reg.ofNum num = some .cmd ∧ decode (v.setWidth 8) = .error e ∧
      t = (s.writeReg .cmd v).report true .illegalCmd) := by
  unfold hostWriteReg at h
  split at h
  next hr =>
    cases h
    exact .inl ⟨hr, rfl⟩
  next hr =>
    unfold hostWriteCmd at h
    split at h
    next i hd => exact .inr (.inr (.inl ⟨i, hr, hd, h⟩))
    next e hd =>
      cases h
      exact .inr (.inr (.inr ⟨e, hr, hd, rfl⟩))
  next r hcmd hr =>
    cases h
    exact .inr (.inl ⟨r, hr, hcmd, rfl⟩)

@[simp] theorem State.writeReg_params (s : State) (r : Reg) (v : Wide) : (s.writeReg r v).params = s.params := by
  rcases s.writeReg_cases r v with h | ⟨-, h⟩ | ⟨-, -, h⟩ <;> rw [h] <;> rfl

@[simp] theorem State.hostWriteByte_params (s : State) (b : Buf) (i : Nat) (v : Byte) :
    (s.hostWriteByte b i v).params = s.params := by
  rcases s.hostWriteByte_cases b i v with h | ⟨-, -, h⟩ | ⟨-, -, h⟩ <;> rw [h] <;> rfl

/-- The command of a CMD write included: a command keeps the parameters (`exec_keeps_inputs`). -/
theorem hostWriteReg_keeps_params {s t : State} {num : Byte} {v : Wide} (h : hostWriteReg s num v = .next t) :
    t.params = s.params := by
  rcases hostWriteReg_cases h with ⟨-, rfl⟩ | ⟨r, -, -, rfl⟩ | ⟨i, -, -, hi⟩ | ⟨e, -, -, rfl⟩
  · rfl
  · exact s.writeReg_params r v
  · obtain ⟨hp, -⟩ := exec_keeps_inputs hi
    rw [hp, State.writeReg_params]
  · rw [State.report_params, State.writeReg_params]

/-- Every event of the bus keeps the parameters, reset too (R7, log entry 5). -/
theorem doEvent_keeps_params {e : BusEvent} {s t : State} (h : doEvent e s = .next t) : t.params = s.params := by
  cases e with
  | regWrite num v => exact hostWriteReg_keeps_params h
  | regRead num => cases h; rfl
  | bufWrite b i v => cases h; exact s.hostWriteByte_params b i v
  | bufRead b i => cases h; rfl
  | reset => cases h; rfl

/-- Everything a step can do: the pending access, the expansion of a statement, or waiting (R20, R70, R97). -/
theorem step_cases {s t : State} (h : step s = .next t) :
    (∃ e rest, s.host.pending = e :: rest ∧ doEvent e (s.setHost { s.host with pending := rest }) = .next t) ∨
    (∃ st rest, s.host.pending = [] ∧ s.host.script = st :: rest ∧
      t = s.setHost { s.host with pending := s.expand st, script := rest }) ∨
    (s.host.pending = [] ∧ s.host.script = [] ∧ t = s) := by
  unfold step stepEvent at h
  split at h
  next e rest hp => exact .inl ⟨e, rest, hp, h⟩
  next hp =>
    split at h
    next st rest hs =>
      cases h
      exact .inr (.inl ⟨st, rest, hp, hs, rfl⟩)
    next hs =>
      cases h
      exact .inr (.inr ⟨hp, hs, rfl⟩)

/-- Settles O55: every event of the bus keeps the parameters, and so do an expansion and a waiting step. -/
theorem sizesNeverChange : Obligations.SizesNeverChange := by
  intro s t h
  rcases step_cases h with ⟨e, rest, -, he⟩ | ⟨st, rest, -, -, rfl⟩ | ⟨-, -, rfl⟩
  · exact (doEvent_keeps_params he).trans (s.setHost_params _)
  · rfl
  · rfl

end Sys2Proof.Machine
end

section
/-! SUPPORT. The register numbers (R23, R60), what a host write and a host read of a register do by its number, and the
step's next access. -/

namespace Sys2Proof

/-! ## Register numbers -/

theorem Reg.ofNum_num (r : Reg) : Reg.ofNum r.num = some r := by
  cases r <;> rfl

theorem Reg.num_of_ofNum {n : Byte} {r : Reg} (h : Reg.ofNum n = some r) : r.num = n := by
  unfold Reg.ofNum at h
  split at h <;> cases h <;> rfl

/-- Settles O3: the two tables of R23 are inverse, row by row. -/
theorem registerNumbersAreUnique : Obligations.RegisterNumbersAreUnique :=
  ⟨Reg.ofNum_num, fun _ _ => Reg.num_of_ofNum⟩

/-- No register of R23 has a number in one of the table's gaps. -/
theorem Reg.num_not_unassigned (r : Reg) :
    ¬((6 < r.num.toNat ∧ r.num.toNat < 0x10) ∨ (0x1A < r.num.toNat ∧ r.num.toNat < 0x20) ∨
      (0x27 < r.num.toNat ∧ r.num.toNat < 0x30) ∨ 0x42 < r.num.toNat) := by
  cases r <;> decide

end Sys2Proof

namespace Sys2Proof.Machine

/-! ## Register accesses by number -/

@[simp] theorem State.hostReadReg_num (s : State) (r : Reg) : s.hostReadReg r.num = s.readReg r := by
  rw [State.hostReadReg, Reg.ofNum_num]

/-- A read-only register ignores the host's write (R24). -/
theorem hostWriteReg_readOnly (s : State) {r : Reg} (v : Wide) (h : 6 < r.num.toNat) :
    hostWriteReg s r.num v = .next s := by
  cases r with
  | cmd | opC | opA | opCI | plen | ilen | walkBase => exact absurd h (by decide)
  | _ => rfl

/-- An unassigned number ignores the host's write (R24). -/
theorem hostWriteReg_unassigned (s : State) {n : Byte} (v : Wide) (h : Reg.ofNum n = none) :
    hostWriteReg s n v = .next s := by
  simp only [hostWriteReg, h]

/-! ## The command write -/

theorem doEvent_cmd_decoded (s : State) {v : Wide} {i : Instr} (h : decode (v.setWidth 8) = .ok i) :
    doEvent (.regWrite 0x00#8 v) s = exec i (s.writeReg .cmd v) := by
  show hostWriteCmd s v = _
  simp only [hostWriteCmd, h]

theorem doEvent_cmd_illegal (s : State) {v : Wide} {e : DecodeReject} (h : decode (v.setWidth 8) = .error e) :
    doEvent (.regWrite 0x00#8 v) s = .next ((s.writeReg .cmd v).report true .illegalCmd) := by
  show hostWriteCmd s v = _
  simp only [hostWriteCmd, h]
  rfl

theorem step_pending {s : State} {e : BusEvent} {rest : List BusEvent} (h : s.host.pending = e :: rest) :
    step s = doEvent e (s.setHost { s.host with pending := rest }) := by
  simp only [step, stepEvent, h]

theorem step_script {s : State} {st : HostStmt} {rest : List HostStmt} (hp : s.host.pending = [])
    (hs : s.host.script = st :: rest) :
    step s = .next (s.setHost { s.host with pending := s.expand st, script := rest }) := by
  simp only [step, stepEvent, hp, hs]

theorem step_idle {s : State} (hp : s.host.pending = []) (hs : s.host.script = []) : step s = .next s := by
  simp only [step, stepEvent, hp, hs]

/-- Settles O5: the step performs the pending CMD write, and that runs the command it decodes to. -/
theorem stepRunsTheWrittenCommand : Obligations.StepRunsTheWrittenCommand := by
  intro s v rest i hp hd
  rw [step_pending hp, doEvent_cmd_decoded _ hd]
  rfl

theorem decode_of_decodeTableWord {w : Nat} {i : Instr} (hw : w < 256) (h : decodeTableWord 8 w = some i) :
    decode (BitVec.ofNat 8 w) = .ok i := by
  rw [decodeTableWord, if_pos hw] at h
  cases hd : decode (BitVec.ofNat 8 w) with
  | ok j => simpa [hd, Except.toOption] using h
  | error e => simp [hd, Except.toOption] at h

/-- Settles O6: the word is a pending CMD write of that byte, so O5 says what the step does. -/
theorem fetchedWordRunsNext : Obligations.FetchedWordRunsNext := by
  intro s w i hw hd
  have low : (BitVec.ofNat 64 w).setWidth 8 = BitVec.ofNat 8 w := by
    apply BitVec.eq_of_toNat_eq
    simp only [BitVec.toNat_setWidth, BitVec.toNat_ofNat]
    omega
  have run := stepRunsTheWrittenCommand (s.withFetchWord 8 w) (BitVec.ofNat 64 w) s.host.pending i rfl
  rw [low] at run
  exact run (decode_of_decodeTableWord hw hd)

/-- Settles O16: with nothing pending and no statement left, the step is its last branch. -/
theorem idleBlockWaits : Obligations.IdleBlockWaits :=
  fun _ hp hs => step_idle hp hs

end Sys2Proof.Machine
end

section
/-! SUPPORT. What the host reads of the registers, and reads back after a write (R23, R24, R30, R39). -/

namespace Sys2Proof.Machine

/-! ## What each number reads -/

/-- The bits of STATUS below bit 4, and FKIND in bits 5:4 (R30). -/
theorem Status.toByte_fields (st : Status) :
    st.toByte.getLsbD 0 = st.err ∧ st.toByte.getLsbD 1 = st.walkActive ∧ st.toByte.getLsbD 2 = st.recValid ∧
      st.toByte.getLsbD 3 = false ∧ st.toByte.extractLsb' 4 2 = st.fkind.code := by
  obtain ⟨err, walkActive, recValid, fkind⟩ := st
  cases err <;> cases walkActive <;> cases recValid <;> cases fkind <;> decide

theorem Status.toByte_lt (st : Status) : st.toByte.toNat < 2 ^ 6 := by
  obtain ⟨err, walkActive, recValid, fkind⟩ := st
  cases err <;> cases walkActive <;> cases recValid <;> cases fkind <;> decide

theorem Status.toByte_high (st : Status) {k : Nat} (h : 6 ≤ k) : st.toByte.getLsbD k = false :=
  Nat.testBit_lt_two_pow (st.toByte_lt.trans_le (Nat.pow_le_pow_right (by decide) h))

/-- STATUS as the host reads it, bit by bit (R30, R68). -/
theorem State.hostReadReg_status (s : State) :
    let w := s.hostReadReg 0x10#8
    w.getLsbD 0 = s.status.err ∧ w.getLsbD 1 = s.status.walkActive ∧ w.getLsbD 2 = s.status.recValid ∧
      w.getLsbD 3 = false ∧ w.extractLsb' 4 2 = s.status.fkind.code ∧ ∀ k, 6 ≤ k → w.getLsbD k = false := by
  obtain ⟨h0, h1, h2, h3, hk⟩ := s.status.toByte_fields
  have hw : s.hostReadReg 0x10#8 = s.status.toByte.setWidth 64 := s.hostReadReg_num .status
  rw [hw, ← h0, ← h1, ← h2, ← hk]
  refine ⟨by simp, by simp, by simp, by simpa using h3, ?_, fun k h => by simp [s.status.toByte_high h]⟩
  ext k hk
  simp
  omega

/-- A register of at most 64 bits reads as its own value: the host's word is zero-extended (R68). -/
theorem State.hostReadReg_toNat {s : State} (r : Reg) {w : Nat} {x : BitVec w} (h : s.readReg r = x.setWidth 64)
    (hw : w ≤ 64 := by decide) : (s.hostReadReg r.num).toNat = x.toNat := by
  rw [State.hostReadReg_num, h, BitVec.toNat_setWidth_of_le hw]

/-- Settles O56: each register answers at its own number (O3), zero-extended; STATUS by its bits. -/
theorem registersReadAsTheTableSays : Obligations.RegistersReadAsTheTableSays := by
  intro s rd hrd
  have row (r : Reg) {w : Nat} {x : BitVec w} (h : s.readReg r = x.setWidth 64) (hw : w ≤ 64 := by decide) :
      rd r.num = x.toNat := (hrd r.num).trans (State.hostReadReg_toNat r h hw)
  obtain ⟨herr, hactive, hvalid, hbit3, hkind, hhigh⟩ := s.hostReadReg_status
  refine ⟨?operands, ⟨herr, hactive, hvalid, hbit3, ?kind, hhigh⟩, ⟨row .errcode rfl, row .olen rfl⟩, ?res, ?hdr,
    ⟨row .walkOff rfl, ?reason, row .recIndex rfl⟩, ?record⟩
  case operands =>
    exact ⟨row .cmd rfl, row .opC rfl, row .opA rfl, row .opCI rfl, row .plen rfl, row .ilen rfl, row .walkBase rfl⟩
  case kind =>
    rw [hkind]
    cases s.status.fkind <;> rfl
  case res =>
    exact ⟨row .resLen rfl, row .resC rfl, row .resA rfl, row .resCI rfl, row .resL rfl, row .resPoff rfl,
      row .resPlen rfl, row .resChk rfl⟩
  case hdr =>
    exact ⟨row .hdrSecAddr rfl, row .hdrManuf rfl, row .hdrMtag rfl, row .hdrVersion rfl, row .hdrMedium rfl,
      row .hdrAccess rfl, row .hdrStatus rfl, row .hdrSig rfl⟩
  case reason =>
    refine (row .walkReason rfl).trans ?_
    cases s.walk.reason <;> rfl
  case record =>
    refine ⟨row .recFlags rfl, row .recDif rfl, row .recDife rfl, row .recVif rfl, row .recVife rfl, row .recStorage rfl,
      row .recLen rfl, row .recRawOff rfl, row .recRaw (BitVec.setWidth_eq _).symm, ?_, row .recValue rfl,
      row .recYear rfl, row .recMonth rfl, row .recDay rfl, row .recHour rfl, row .recMinute rfl⟩
    refine (row .recKind rfl).trans ?_
    cases s.record.kind <;> rfl

/-! ## What a write leaves -/

/-- An RW register but CMD, written by its number, stores the value (R24). -/
theorem doEvent_regWrite (s : State) {r : Reg} (v : Wide) (h : r ≠ .cmd) :
    doEvent (.regWrite r.num v) s = .next (s.writeReg r v) := by
  show hostWriteReg s r.num v = _
  unfold hostWriteReg
  rw [Reg.ofNum_num]
  cases r with
  | cmd => exact absurd rfl h
  | _ => rfl

/-- A value written to a `w`-bit register reads back truncated to `w` bits. -/
theorem State.hostReadReg_truncated {t : State} {v : Wide} (r : Reg) (w : Nat)
    (h : t.readReg r = (v.setWidth w).setWidth 64) (hw : w ≤ 64 := by decide) :
    (t.hostReadReg r.num).toNat = v.toNat % 2 ^ w := by
  rw [State.hostReadReg_toNat r h hw, BitVec.toNat_setWidth]

/-- A CMD write stores the byte, whatever it then runs or reports (R25, R205). -/
theorem doEvent_cmd_stores (s : State) (v : Wide) :
    ∃ t, doEvent (.regWrite 0x00#8 v) s = .next t ∧ t.ops = { s.ops with cmd := v.setWidth 8 } ∧
      ∀ e, decode (v.setWidth 8) = .error e → t.reportsError .illegalCmd := by
  cases hd : decode (v.setWidth 8) with
  | ok i =>
    obtain ⟨t, ht, -⟩ := exec_effect i (s.writeReg .cmd v)
    obtain ⟨-, hops, -⟩ := exec_keeps_inputs ht
    exact ⟨t, (doEvent_cmd_decoded s hd).trans ht, hops, fun _ h => nomatch h⟩
  | error e => exact ⟨_, doEvent_cmd_illegal s hd, rfl, fun _ _ => ⟨rfl, rfl⟩⟩

/-- Settles O8: by the register a number names, or that it names none. -/
theorem registerAccessRules : Obligations.RegisterAccessRules := by
  refine ⟨fun s n v h => ?readOnly, fun s n h => ?unassigned, fun s n v h1 h3 => ?bytes, fun s n v h4 h6 => ?halves,
    fun s v => ?cmd⟩
  case readOnly =>
    cases hn : Reg.ofNum n with
    | none => exact hostWriteReg_unassigned s v hn
    | some r =>
      obtain rfl := Reg.num_of_ofNum hn
      exact hostWriteReg_readOnly s v h
  case unassigned =>
    cases hn : Reg.ofNum n with
    | none => simp only [State.hostReadReg, hn]
    | some r =>
      obtain rfl := Reg.num_of_ofNum hn
      exact absurd h r.num_not_unassigned
  case bytes =>
    obtain rfl | rfl | rfl : n = Reg.opC.num ∨ n = Reg.opA.num ∨ n = Reg.opCI.num := by
      simp only [Reg.num]
      bv_omega
    · exact ⟨_, doEvent_regWrite s v (by decide), State.hostReadReg_truncated .opC 8 rfl⟩
    · exact ⟨_, doEvent_regWrite s v (by decide), State.hostReadReg_truncated .opA 8 rfl⟩
    · exact ⟨_, doEvent_regWrite s v (by decide), State.hostReadReg_truncated .opCI 8 rfl⟩
  case halves =>
    obtain rfl | rfl | rfl : n = Reg.plen.num ∨ n = Reg.ilen.num ∨ n = Reg.walkBase.num := by
      simp only [Reg.num]
      bv_omega
    · exact ⟨_, doEvent_regWrite s v (by decide), State.hostReadReg_truncated .plen 16 rfl⟩
    · exact ⟨_, doEvent_regWrite s v (by decide), State.hostReadReg_truncated .ilen 16 rfl⟩
    · exact ⟨_, doEvent_regWrite s v (by decide), State.hostReadReg_truncated .walkBase 16 rfl⟩
  case cmd =>
    obtain ⟨t, ht, hops, hillegal⟩ := doEvent_cmd_stores s v
    exact ⟨t, ht, State.hostReadReg_truncated .cmd 8 (by rw [State.readReg, hops]), hillegal⟩

theorem State.hostWriteByte_ibuf {s : State} {i : Nat} (v : Byte) (h : i < s.params.ibufSize) :
    s.hostWriteByte .ibuf i v = (s.setIbuf (s.ibuf.put i v)).invalidate := if_pos h

/-- Settles O10: the write is `hostWriteByte_ibuf` or ILEN's own branch, the bytes by the laws of `Memory.put`. -/
theorem hostWriteInvalidatesTheFrame : Obligations.HostWriteInvalidatesTheFrame := by
  refine ⟨fun s i v h => ⟨_, congrArg Host.Outcome.next (State.hostWriteByte_ibuf v h), rfl, ?_, fun j hj => ?_⟩, fun _ _ => rfl⟩
  · exact State.bufByte_of_get (b := .ibuf) h (Memory.get_put_same s.ibuf i v)
  · exact State.bufByte_of_get_eq (b := .ibuf) rfl rfl (Memory.get_put_other s.ibuf v hj)

end Sys2Proof.Machine
end

section
/-! SUPPORT. What a command leaves unchanged, group of registers by group (R26 to R36), and that every step answers (R40). -/

namespace Sys2Proof.Machine

section
variable {i : Instr} {s t : State}

/-- Only the builds write OBUF and OLEN (R32, R38). -/
theorem exec_keeps_output (h : exec i s = .next t) (hs : i ≠ .buildShort) (hl : i ≠ .buildLong) :
    t.obuf = s.obuf ∧ t.olen = s.olen := by
  cases effect_of_exec h with
  | buildsShort => exact absurd rfl hs
  | buildsLong | buildTooBig | buildTooLong => exact absurd rfl hl
  | _ => exact ⟨rfl, rfl⟩

/-- Only DECODE_HEADER writes the HDR_* registers (R34). -/
theorem exec_keeps_hdr (h : exec i s = .next t) (hi : i ≠ .decodeHeader) : t.hdr = s.hdr := by
  cases effect_of_exec h with
  | headerNoFrame | headerShort | decodes => exact absurd rfl hi
  | _ => rfl

/-- Only the walker writes the REC_* registers and the walker state (R35, R36). -/
theorem exec_keeps_walker (h : exec i s = .next t) (hs : i ≠ .walkStart) (hn : i ≠ .walkNext) :
    t.record = s.record ∧ t.walk = s.walk := by
  cases effect_of_exec h with
  | startNoFrame | starts => exact absurd rfl hs
  | nextNoWalk | emits | ends => exact absurd rfl hn
  | _ => exact ⟨rfl, rfl⟩

/-- Outside the validate family RES_* stays, but for the RES_CHK of CHECKSUM, and so does FKIND (R33, R129). -/
theorem exec_keeps_frame (h : exec i s = .next t) (hs : i ≠ .validateShort) (hl : i ≠ .validateLong)
    (ha : i ≠ .checkAck) :
    t.res.agrees s.res ∧ (i ≠ .checksum → t.res = s.res) ∧ t.status.fkind = s.status.fkind := by
  cases effect_of_exec h with
  | sums | sumTooBig => exact ⟨rfl, fun hc => absurd rfl hc, rfl⟩
  | acceptsShort => exact absurd rfl hs
  | acceptsLong => exact absurd rfl hl
  | acceptsAck => exact absurd rfl ha
  | rejects _ _ _ family => simp [hs, hl, ha] at family
  | _ => exact ⟨rfl, fun _ => rfl, rfl⟩

/-- The builds, CHECKSUM and DECODE_HEADER write no flag of STATUS but ERR (R30). -/
theorem exec_keeps_flags (h : exec i s = .next t)
    (hi : i = .buildShort ∨ i = .buildLong ∨ i = .checksum ∨ i = .decodeHeader) : s.sameFlags t := by
  cases effect_of_exec h with
  | acceptsShort | acceptsLong | acceptsAck | startNoFrame | starts | nextNoWalk | emits | ends => simp at hi
  | rejects _ _ _ family => rcases family with rfl | rfl | rfl <;> simp at hi
  | _ => exact ⟨rfl, rfl, rfl⟩

end

/-- Settles O49: the inputs by `exec_keeps_inputs`, the output by `exec_keeps_output`. -/
theorem commandsKeepTheirOperands : Obligations.CommandsKeepTheirOperands := by
  intro i s
  obtain ⟨t, ht, -⟩ := exec_effect i s
  obtain ⟨hp, hops, he, hi, hpb, hh⟩ := exec_keeps_inputs ht
  refine ⟨t, ht, hops, hp, he, hh, State.bufByte_congr (b := .ibuf) hp he hi, State.bufByte_congr (b := .pbuf) hp he hpb,
    fun hs hl => ?_⟩
  obtain ⟨ho, hlen⟩ := exec_keeps_output ht hs hl
  exact ⟨State.bufByte_congr (b := .obuf) hp he ho, hlen⟩

/-- Settles O50: one lemma for each group of result registers. -/
theorem resultsBelongToTheirFamily : Obligations.ResultsBelongToTheirFamily := by
  intro i s t h
  exact ⟨exec_keeps_hdr h, exec_keeps_walker h, fun hs hl ha => (exec_keeps_frame h hs hl ha).2.1, exec_keeps_flags h⟩

/-! ## Every step answers -/

theorem hostWriteReg_answers (s : State) (num : Byte) (v : Wide) : ∃ t, hostWriteReg s num v = .next t := by
  cases hn : Reg.ofNum num with
  | none => exact ⟨s, hostWriteReg_unassigned s v hn⟩
  | some r =>
    obtain rfl := Reg.num_of_ofNum hn
    by_cases hr : r = .cmd
    · subst hr
      obtain ⟨t, ht, -⟩ := doEvent_cmd_stores s v
      exact ⟨t, ht⟩
    · exact ⟨_, doEvent_regWrite s v hr⟩

theorem doEvent_answers (e : BusEvent) (s : State) : ∃ t, doEvent e s = .next t := by
  cases e with
  | regWrite num v => exact hostWriteReg_answers s num v
  | regRead | bufWrite | bufRead | reset => exact ⟨_, rfl⟩

theorem step_answers (s : State) : ∃ t, step s = .next t := by
  cases hp : s.host.pending with
  | cons e rest =>
    rw [step_pending hp]
    exact doEvent_answers e _
  | nil =>
    cases hs : s.host.script with
    | cons st rest => exact ⟨_, step_script hp hs⟩
    | nil => exact ⟨s, step_idle hp hs⟩

/-- Settles O52: a command has one of the listed effects, and a step one event, expansion or wait. -/
theorem everyStepAnswers : Obligations.EveryStepAnswers :=
  ⟨fun i s => (exec_effect i s).imp fun _ h => h.1, step_answers⟩

end Sys2Proof.Machine
end

section
/-! SUPPORT. The invariant, clause by clause: what keeps it in a command, in a host access, in a reset, and so in a step
(R39, R129, R200, R30). -/

namespace Sys2Proof.Machine

/-! ## Clauses of the invariant -/

/-- The invariant's clause about OLEN: nothing built, a short frame, or a long frame (R32). -/
def State.olenLegal (s : State) : Prop :=
  s.olen.toNat = 0 ∨ s.olen.toNat = 5 ∨ (9 ≤ s.olen.toNat ∧ s.olen.toNat ≤ 261)

/-- The invariant's clause about an active walk: a walk of a held long frame that has not ended (R30, R35). -/
def State.walkHeld (s : State) : Prop :=
  s.status.walkActive = true → s.status.fkind = .long ∧ s.walk.reason = .none

/-- The invariant's clause about a valid record: one of an active walk, the cursor just after it (R36, R176). -/
def State.recordPlaced (s : State) : Prop :=
  s.status.recValid = true →
    s.status.walkActive = true ∧ s.walk.off.toNat ≤ s.res.plen.toNat ∧
      s.walk.off.toNat = s.record.rawOff.toNat + s.record.len.toNat

/-! ## Commands -/

theorem ne_ok_of_raisedBy {i : Instr} {e : ErrCode} (h : e ∈ raisedBy i) : e ≠ .ok := by
  rintro rfl
  cases i <;> revert h <;> decide

/-- A frame of a build, written from index 0, keeps OBUF canonical and inside its size. -/
theorem obuf_putBytes_ok {m : Memory} {bs : List Byte} (h : m.wf ∧ m.below Config.obufSize) (hb : bs.length ≤ 261) :
    (m.putBytes 0 bs).wf ∧ (m.putBytes 0 bs).below Config.obufSize :=
  ⟨Memory.putBytes_wf h.1 0 bs, Memory.putBytes_below h.2 0 bs (by rwa [Nat.zero_add])⟩

/-- What a pass of CHECK_ACK's checks means (R127). -/
theorem ackError_eq_none_iff (rd : Nat → Byte) (len : Nat) : ackError rd len = none ↔ len = 1 ∧ rd 0 = ackByte := by
  unfold ackError
  split
  · simp_all
  · split <;> simp_all

/-- An emitted record keeps its place: the interpretation writes neither REC_RAW_OFF nor REC_LEN (R174). -/
theorem recordOf_place (rd : Nat → Byte) (dif dife vif vife : Byte) (q l : Nat) :
    (recordOf rd dif dife vif vife q l).rawOff = BitVec.ofNat 16 q ∧
      (recordOf rd dif dife vif vife q l).len = BitVec.ofNat 8 l := by
  rw [recordOf, interpret_keeps]
  exact ⟨rfl, rfl⟩

/-- The registers lose nothing of a record's place: it ends inside the payload, whose length is a 16-bit number (R170). -/
theorem State.cursorFits.place {s : State} (h : s.cursorFits) :
    (BitVec.ofNat 16 (s.cursorData + s.cursorLen)).toNat = s.cursorData + s.cursorLen ∧
      (BitVec.ofNat 16 s.cursorData).toNat = s.cursorData ∧ (BitVec.ofNat 8 s.cursorLen).toNat = s.cursorLen := by
  obtain ⟨-, -, hfit⟩ := h
  have hn : s.payloadLen < 2 ^ 16 := s.res.plen.isLt
  have hl : s.cursorLen ≤ 8 := dataLength_le _
  simp only [BitVec.toNat_ofNat]
  omega

section
variable {i : Instr} {s t : State}

/-- Every command's end writes ERR and ERRCODE together (R202, R203). -/
theorem exec_report (h : exec i s = .next t) : t.status.err = true ↔ t.errcode ≠ .ok := by
  cases effect_of_exec h with
  | rejects _ _ e _ code => exact iff_of_true rfl (ne_ok_of_raisedBy code)
  | buildTooBig | buildTooLong | sumTooBig | headerNoFrame | headerShort | startNoFrame | nextNoWalk =>
    exact iff_of_true rfl nofun
  | buildsShort | buildsLong | sums | acceptsShort | acceptsLong | acceptsAck | decodes | starts | emits | ends =>
    exact iff_of_false nofun (not_not_intro rfl)

/-- A build writes no more than the 261 bytes of OBUF (R84, R85). -/
theorem exec_obuf (h : exec i s = .next t) (ho : s.obuf.wf ∧ s.obuf.below Config.obufSize) :
    t.obuf.wf ∧ t.obuf.below Config.obufSize := by
  cases effect_of_exec h with
  | buildsShort => exact obuf_putBytes_ok ho (by simp)
  | buildsLong _ _ short =>
    refine obuf_putBytes_ok ho ?_
    rw [longFrame_length, State.payloadOperand, readBytes_length]
    omega
  | _ => exact ho

theorem exec_olen (h : exec i s = .next t) (ho : s.olenLegal) : t.olenLegal := by
  cases effect_of_exec h with
  | buildsShort => exact .inr (.inl rfl)
  | buildsLong _ _ short =>
    have hlen : (s.ops.plen + 9#16).toNat = s.ops.plen.toNat + 9 := by
      rw [BitVec.toNat_add, BitVec.toNat_ofNat]
      omega
    refine .inr (.inr ?_)
    rw [State.report_olen, State.setOlen_olen, hlen]
    omega
  | buildTooBig | buildTooLong => exact .inl rfl
  | _ => exact ho

/-- A frame accepted by its validator is what FKIND promises; a rejected one leaves FKIND NONE (R120); no other command
touches the held frame (R129). -/
theorem exec_held (h : exec i s = .next t) (hh : s.heldFrameOk) : t.heldFrameOk := by
  obtain ⟨hp, hops, he, hib, -⟩ := exec_keeps_inputs h
  cases effect_of_exec h with
  | acceptsShort _ fits pass => exact ⟨fits, pass, rfl⟩
  | acceptsLong _ fits pass => exact ⟨fits, pass, rfl⟩
  | acceptsAck _ _ pass =>
    obtain ⟨hlen, hbyte⟩ := (ackError_eq_none_iff _ _).1 pass
    exact ⟨hlen, hbyte, rfl⟩
  | rejects => trivial
  | _ => exact State.heldFrameOk_congr hp he hib (congrArg _ hops) rfl rfl hh

/-- A walk starts over a held long frame alone (R171), and a validation or an end stops it (R120, R177). -/
theorem exec_walking (h : exec i s = .next t) (hw : s.walkHeld) : t.walkHeld := by
  cases effect_of_exec h with
  | starts _ kind => exact fun _ => ⟨kind, rfl⟩
  | acceptsShort | acceptsLong | acceptsAck | rejects | startNoFrame | ends => exact nofun
  | _ => exact hw

/-- A record is emitted with the cursor at its end (R176); every other walker command, and a validation, drops it. -/
theorem exec_recording (h : exec i s = .next t) (hr : s.recordPlaced) : t.recordPlaced := by
  cases effect_of_exec h with
  | emits _ active fits =>
    obtain ⟨hoff, hraw, hlen⟩ := fits.place
    obtain ⟨-, -, hfit⟩ := fits
    refine fun _ => ⟨active, hoff.trans_le hfit, hoff.trans ?_⟩
    rw [State.report_record, State.walkStep, State.setRecValid_record, State.setWalk_record, State.setRecord_record,
      (recordOf_place ..).1, (recordOf_place ..).2, hraw, hlen]
  | acceptsShort | acceptsLong | acceptsAck | rejects | startNoFrame | starts | nextNoWalk | ends => exact nofun
  | _ => exact hr

/-- Every command keeps the invariant. -/
theorem exec_keeps_inv (h : exec i s = .next t) (hs : s.Inv) : t.Inv := by
  obtain ⟨hp, -, -, hib, hpb, -⟩ := exec_keeps_inputs h
  exact {
    sizes := hp ▸ hs.sizes
    ibuf := by rw [hib, hp]; exact hs.ibuf
    pbuf := by rw [hpb, hp]; exact hs.pbuf
    obuf := exec_obuf h hs.obuf
    report := exec_report h
    olen := exec_olen h hs.olen
    held := exec_held h hs.held
    walking := exec_walking h hs.walking
    recording := exec_recording h hs.recording }

end

/-! ## Host accesses and reset -/

section
variable {s : State}

/-- The invariant does not look at the host's side of the bus. -/
theorem State.Inv.setHost (h : s.Inv) (p : HostPort) : (s.setHost p).Inv := { h with held := h.held }

/-- No operand register but ILEN bears on the held frame (R39). -/
theorem State.Inv.setOps (h : s.Inv) {o : OperandRegs} (ho : o.ilen = s.ops.ilen) : (s.setOps o).Inv :=
  { h with held := State.heldFrameOk_congr (s := s) rfl rfl rfl ho rfl rfl h.held }

theorem State.Inv.report_error (h : s.Inv) {c : ErrCode} (hc : c ≠ .ok) : (s.report true c).Inv :=
  { h with report := iff_of_true rfl hc, held := h.held }

/-- Any write of the operand registers, ILEN too, is safe once the held frame is invalid (R39). -/
theorem State.Inv.invalidate_setOps (h : s.Inv) (o : OperandRegs) : (s.setOps o).invalidate.Inv :=
  { h with held := trivial, walking := nofun, recording := nofun }

/-- So is a write to IBUF below its size (R39). -/
theorem State.Inv.invalidate_putIbuf (h : s.Inv) {i : Nat} (hi : i < s.params.ibufSize) (v : Byte) :
    (s.setIbuf (s.ibuf.put i v)).invalidate.Inv :=
  { h with
    ibuf := ⟨Memory.put_wf h.ibuf.1 i v, Memory.put_below h.ibuf.2 hi v⟩
    held := trivial
    walking := nofun
    recording := nofun }

theorem State.Inv.putPbuf (h : s.Inv) {i : Nat} (hi : i < s.params.pbufSize) (v : Byte) :
    (s.setPbuf (s.pbuf.put i v)).Inv :=
  { h with pbuf := ⟨Memory.put_wf h.pbuf.1 i v, Memory.put_below h.pbuf.2 hi v⟩, held := h.held }

theorem State.Inv.writeReg (h : s.Inv) (r : Reg) (v : Wide) : (s.writeReg r v).Inv := by
  rcases s.writeReg_cases r v with hw | ⟨-, hw⟩ | ⟨-, hi, hw⟩ <;> rw [hw]
  · exact h
  · exact h.invalidate_setOps _
  · exact h.setOps hi

theorem State.Inv.hostWriteByte (h : s.Inv) (b : Buf) (i : Nat) (v : Byte) : (s.hostWriteByte b i v).Inv := by
  rcases s.hostWriteByte_cases b i v with hw | ⟨-, hi, hw⟩ | ⟨-, hi, hw⟩ <;> rw [hw]
  · exact h
  · exact h.invalidate_putIbuf hi v
  · exact h.putPbuf hi v

/-- Reset leaves every clause but the sizes at its reset value (R230, R231). -/
theorem State.platformReset_inv (h : s.params.ok) : s.platformReset.Inv where
  sizes := h
  ibuf := ⟨.nil, nofun⟩
  pbuf := ⟨.nil, nofun⟩
  obuf := ⟨.nil, nofun⟩
  report := iff_of_false nofun (not_not_intro rfl)
  olen := .inl rfl
  held := trivial
  walking := nofun
  recording := nofun

end

theorem hostWriteReg_keeps_inv {s t : State} {num : Byte} {v : Wide} (h : hostWriteReg s num v = .next t) (hs : s.Inv) :
    t.Inv := by
  rcases hostWriteReg_cases h with ⟨-, rfl⟩ | ⟨r, -, -, rfl⟩ | ⟨i, -, -, hi⟩ | ⟨e, -, -, rfl⟩
  · exact hs
  · exact hs.writeReg r v
  · exact exec_keeps_inv hi (hs.writeReg .cmd v)
  · exact (hs.writeReg .cmd v).report_error nofun

theorem doEvent_keeps_inv {e : BusEvent} {s t : State} (h : doEvent e s = .next t) (hs : s.Inv) : t.Inv := by
  cases e with
  | regWrite num v => exact hostWriteReg_keeps_inv h hs
  | regRead num => cases h; exact hs.setHost _
  | bufWrite b i v => cases h; exact hs.hostWriteByte b i v
  | bufRead b i => cases h; exact hs.setHost _
  | reset => cases h; exact State.platformReset_inv hs.sizes

/-- Settles O54: the invariant does not look at the host's lists, and every event of the bus keeps it. -/
theorem stepKeepsTheInvariant : Obligations.StepKeepsTheInvariant := by
  intro s t hs h
  rcases step_cases h with ⟨e, rest, -, he⟩ | ⟨st, rest, -, -, rfl⟩ | ⟨-, -, rfl⟩
  · exact doEvent_keeps_inv he (hs.setHost _)
  · exact hs.setHost _
  · exact hs

end Sys2Proof.Machine
end

section
/-! SUPPORT. The buffers as the host reaches them (spec/20_memory.md R61, R62, R68, R70): a step's next access, writes and
reads inside and outside a buffer. -/

namespace Sys2Proof.Machine

/-- Settles O4: the step's first two branches. -/
theorem stepTakesTheNextEvent : Obligations.StepTakesTheNextEvent :=
  ⟨fun _ _ _ => step_pending, fun _ _ _ => step_script⟩

/-- An index at or above a buffer's size ignores the host's write (R62). -/
theorem State.hostWriteByte_outside {s : State} {b : Buf} {i : Nat} (v : Byte) (h : s.bufSize b ≤ i) :
    s.hostWriteByte b i v = s := if_neg (Nat.not_lt.2 h)

/-- OBUF ignores the host's write at any index (R62). -/
theorem State.hostWriteByte_obuf (s : State) (i : Nat) (v : Byte) : s.hostWriteByte .obuf i v = s := ite_self s

theorem State.hostWriteByte_pbuf {s : State} {i : Nat} (v : Byte) (h : i < s.params.pbufSize) :
    s.hostWriteByte .pbuf i v = s.setPbuf (s.pbuf.put i v) := if_pos h

/-- Settles O11: the accessor answers 0 there, and `hostWriteByte` keeps the state. -/
theorem accessOutsideABufferIsIgnored : Obligations.AccessOutsideABufferIsIgnored := by
  intro s b i v
  refine ⟨fun h => ⟨?read, congrArg Host.Outcome.next (s.hostWriteByte_outside v h)⟩,
    congrArg Host.Outcome.next (s.hostWriteByte_obuf i v)⟩
  case read =>
    rw [doEvent, s.bufByte_outside h]
    rfl

/-- Settles O12: the write is `hostWriteByte_pbuf`, the bytes by the laws of `Memory.put`. -/
theorem payloadWriteReadsBack : Obligations.PayloadWriteReadsBack := by
  refine fun s i v h => ⟨_, congrArg Host.Outcome.next (s.hostWriteByte_pbuf v h), rfl, ?same, fun j hj => ?other⟩
  case same => exact State.bufByte_of_get (b := .pbuf) h (Memory.get_put_same s.pbuf i v)
  case other => exact State.bufByte_of_get_eq (b := .pbuf) rfl rfl (Memory.get_put_other s.pbuf v hj)

/-- Settles O13: the read's value goes to the host's list, a byte zero-extended. -/
theorem readsHaveNoSideEffect : Obligations.ReadsHaveNoSideEffect :=
  ⟨fun _ _ => rfl, fun s b i => ⟨(s.bufByte b i).setWidth 64, BitVec.toNat_setWidth_of_le (by decide), rfl⟩⟩

end Sys2Proof.Machine
end

section
/-! SUPPORT. What a command reads of IBUF and PBUF (R63): other contents of the two buffers, the same below ILEN and PLEN,
give the same command. -/

namespace Sys2Proof.Machine

/-- `s` with other contents of the two buffers commands read, IBUF and PBUF. -/
def State.setInputs (s : State) (mi mp : Memory) : State := (s.setIbuf mi).setPbuf mp

/-- With PBUF as it stands, only IBUF is replaced. -/
theorem State.setInputs_eq_setIbuf {s : State} {mp : Memory} (h : s.pbuf = mp) (mi : Memory) :
    s.setInputs mi mp = s.setIbuf mi := by
  subst h
  rfl

/-- With IBUF as it stands, only PBUF is replaced. -/
theorem State.setInputs_eq_setPbuf {s : State} {mi : Memory} (h : s.ibuf = mi) (mp : Memory) :
    s.setInputs mi mp = s.setPbuf mp := by
  subst h
  rfl

/-- The writes after a look at the payload do not depend on the buffers (R176). -/
theorem State.walkStep_setInputs (s : State) (w : WalkFind) (mi mp : Memory) :
    (s.setInputs mi mp).walkStep w = (s.walkStep w).setInputs mi mp := by
  cases w <;> rfl

/-! ## The validators' and the header's bytes -/

/-- CHECK_ACK reads no byte at or above `len` (R63). -/
theorem ackError_congr {rd rd' : Nat → Byte} {len : Nat} (h : ∀ k, k < len → rd' k = rd k) :
    ackError rd' len = ackError rd len := by
  unfold ackError
  by_cases hl : len = 1
  · rw [h 0 (by omega)]
  · rw [if_pos hl, if_pos hl]

/-- The RES_* registers of an accepted short frame come from below `len` (R63). -/
theorem shortFrameRes_congr {rd rd' : Nat → Byte} {len : Nat} (h : ∀ k, k < len → rd' k = rd k)
    (pass : shortFrameError rd len = none) : shortFrameRes rd' = shortFrameRes rd := by
  obtain ⟨hlen, -⟩ := (shortFrameError_eq_none_iff rd len).1 pass
  rw [shortFrameRes, shortFrameRes, h 1 (by omega), h 2 (by omega),
    readBytes_congr (i := 1) (n := 2) fun k _ hk => h k (by omega)]

/-- The RES_* registers of an accepted long frame come from below `len` (R63). -/
theorem longFrameRes_congr {rd rd' : Nat → Byte} {len : Nat} (h : ∀ k, k < len → rd' k = rd k)
    (pass : longFrameError rd len = none) : longFrameRes rd' = longFrameRes rd := by
  obtain ⟨hlen, -, -, -, -, hL, -⟩ := (longFrameError_eq_none_iff rd len).1 pass
  rw [longFrameRes, longFrameRes, h 1 (by omega), h 4 (by omega), h 5 (by omega), h 6 (by omega),
    readBytes_congr (i := 4) (n := (rd 1).toNat) fun k _ hk => h k (by omega)]

/-- The header fields come from IBUF indices 7 to 18 (R151, R152). -/
theorem State.headerFields_congr {s u : State} (h : ∀ k, k < 19 → u.bufByte .ibuf k = s.bufByte .ibuf k) :
    u.headerFields = s.headerFields := by
  have read (i n : Nat) (hn : i + n ≤ 19) : u.memRead .ibuf i n = s.memRead .ibuf i n := by
    rw [State.memRead, State.memRead, readBytes_congr fun k _ hk => h k (by omega)]
  rw [State.headerFields, State.headerFields, read 7 4 (by decide), read 11 2 (by decide), read 17 2 (by decide),
    h 13 (by decide), h 14 (by decide), h 15 (by decide), h 16 (by decide)]

/-- A validate-family command whose checks, and on a pass whose RES_* registers, come out the same. -/
theorem validateWith_setInputs {check check' : Option ErrCode} {res res' : ResRegs} {kind : FrameKind} {s t : State}
    {mi mp : Memory} (hc : check' = check) (hr : check = none → res' = res)
    (h : validateWith check res kind s = .next t) :
    validateWith check' res' kind (s.setInputs mi mp) = .next (t.setInputs mi mp) := by
  rcases validateWith_cases check res kind s with ⟨big, e⟩ | ⟨fits, c, fail, e⟩ | ⟨fits, pass, e⟩ <;>
    cases e.symm.trans h
  · exact validateWith_tooBig big
  · rw [hc, fail]
    exact validateWith_some fits
  · rw [hc, hr pass, pass]
    exact validateWith_none fits

/-! ## Every command -/

section
variable {s t : State} {mi mp : Memory}
  (hib : ∀ k, k < s.ops.ilen.toNat → (s.setInputs mi mp).bufByte .ibuf k = s.bufByte .ibuf k)

include hib

theorem execValidateShort_setInputs (h : execValidateShort s = .next t) :
    execValidateShort (s.setInputs mi mp) = .next (t.setInputs mi mp) :=
  validateWith_setInputs (shortFrameError_congr hib) (shortFrameRes_congr hib) h

theorem execValidateLong_setInputs (h : execValidateLong s = .next t) :
    execValidateLong (s.setInputs mi mp) = .next (t.setInputs mi mp) :=
  validateWith_setInputs (longFrameError_congr hib) (longFrameRes_congr hib) h

theorem execCheckAck_setInputs (h : execCheckAck s = .next t) :
    execCheckAck (s.setInputs mi mp) = .next (t.setInputs mi mp) :=
  validateWith_setInputs (ackError_congr hib) (fun _ => rfl) h

/-- The header of a held long frame lies below ILEN, for its payload does. -/
theorem headerFields_setInputs (hs : s.Inv) (kind : s.status.fkind = .long) (fits : 12 ≤ s.res.plen.toNat) :
    (s.setInputs mi mp).headerFields = s.headerFields := by
  obtain ⟨hlen, -⟩ := hs.payload_below kind
  exact State.headerFields_congr fun k hk => hib k (by omega)

/-- A walk is one of a held long frame, whose payload lies below ILEN. -/
theorem execWalkNext_setInputs (hs : s.Inv) (active : s.status.walkActive = true) (h : execWalkNext s = .next t) :
    execWalkNext (s.setInputs mi mp) = .next (t.setInputs mi mp) := by
  obtain ⟨kind, -⟩ := hs.walking active
  obtain ⟨hlen, -⟩ := hs.payload_below kind
  have look : walkFind (s.setInputs mi mp).payloadByte (s.setInputs mi mp).res.plen.toNat
      (s.setInputs mi mp).walk.off.toNat = walkFind s.payloadByte s.res.plen.toNat s.walk.off.toNat :=
    walkFind_congr (n := s.res.plen.toNat) _ fun k hk => hib (7 + k) (by omega)
  rw [execWalkNext_looks active] at h
  cases h
  rw [execWalkNext_looks (s := s.setInputs mi mp) active, look]
  exact congrArg finish (s.clearRec.walkStep_setInputs _ mi mp)

/-- R63 for both buffers at once: other contents that agree below ILEN and PLEN give the same command. -/
theorem exec_setInputs {i : Instr} (hs : s.Inv)
    (hpb : ∀ k, k < s.ops.plen.toNat → (s.setInputs mi mp).bufByte .pbuf k = s.bufByte .pbuf k)
    (h : exec i s = .next t) : exec i (s.setInputs mi mp) = .next (t.setInputs mi mp) := by
  have payload : (s.setInputs mi mp).payloadOperand = s.payloadOperand :=
    readBytes_congr fun k _ hk => hpb k (by rwa [Nat.zero_add] at hk)
  cases effect_of_exec h with
  | buildsShort => rfl
  | buildsLong _ fits short =>
    rw [← payload]
    exact execBuildLong_builds (s := s.setInputs mi mp) (Nat.not_lt.2 fits) (Nat.not_lt.2 short)
  | buildTooBig _ big => exact execBuildLong_tooBig (s := s.setInputs mi mp) big
  | buildTooLong _ fits long => exact execBuildLong_tooLong (s := s.setInputs mi mp) (Nat.not_lt.2 fits) long
  | sums _ fits =>
    rw [← payload]
    exact execChecksum_sums (s := s.setInputs mi mp) (Nat.not_lt.2 fits)
  | sumTooBig _ big => exact execChecksum_tooBig (s := s.setInputs mi mp) big
  | acceptsShort => exact execValidateShort_setInputs hib h
  | acceptsLong => exact execValidateLong_setInputs hib h
  | acceptsAck => exact execCheckAck_setInputs hib h
  | rejects _ _ _ family =>
    obtain rfl | rfl | rfl := family
    · exact execValidateShort_setInputs hib h
    · exact execValidateLong_setInputs hib h
    · exact execCheckAck_setInputs hib h
  | headerNoFrame _ kind => exact execDecodeHeader_noFrame (s := s.setInputs mi mp) kind
  | headerShort _ kind short => exact execDecodeHeader_short (s := s.setInputs mi mp) kind short
  | decodes _ kind fits =>
    rw [← headerFields_setInputs hib hs kind fits]
    exact execDecodeHeader_decodes (s := s.setInputs mi mp) kind (Nat.not_lt.2 fits)
  | startNoFrame _ kind => exact execWalkStart_noFrame (s := s.setInputs mi mp) kind
  | starts _ kind => exact execWalkStart_starts (s := s.setInputs mi mp) kind
  | nextNoWalk _ idle => exact execWalkNext_noWalk (s := s.setInputs mi mp) idle
  | emits _ active | ends _ _ active => exact execWalkNext_setInputs hib hs active h

end

/-- Settles O51: `exec_setInputs`, with the buffer that is not replaced left as it stands. -/
theorem commandsReadOnlyGivenBytes : Obligations.CommandsReadOnlyGivenBytes := by
  intro i s m hs
  obtain ⟨t, ht, -⟩ := exec_effect i s
  obtain ⟨-, -, -, hib, hpb, -⟩ := exec_keeps_inputs ht
  refine ⟨fun agree => ⟨t, ht, ?ibuf⟩, fun agree => ⟨t, ht, ?pbuf⟩⟩
  case ibuf =>
    have run := exec_setInputs (mi := m) (mp := s.pbuf) agree hs (fun _ _ => rfl) ht
    rwa [t.setInputs_eq_setIbuf hpb] at run
  case pbuf =>
    have run := exec_setInputs (mi := s.ibuf) (mp := m) (fun _ _ => rfl) hs agree ht
    rwa [t.setInputs_eq_setPbuf hib] at run

end Sys2Proof.Machine
end

section
/-! SUPPORT. The command word (spec/30_encoding.md R80 to R82): the decoder and the encoder are inverse, and their rows
are those of the opcode map. -/

namespace Sys2Proof

@[simp] theorem decode_encode (i : Instr) : decode (encode i) = .ok i := by
  cases i <;> rfl

theorem encode_of_decode {b : Byte} {i : Instr} (h : decode b = .ok i) : encode i = b := by
  unfold decode at h
  split at h <;> cases h <;> rfl

/-- The bytes that decode to a command are that command's word, so the encoder says all of R81. -/
theorem decode_eq_ok_iff {b : Byte} {i : Instr} : decode b = .ok i ↔ b = encode i :=
  ⟨fun h => (encode_of_decode h).symm, fun h => h ▸ decode_encode i⟩

/-- Settles O1: a byte decodes to a command exactly when it is the command's word, and R81 has one row a command. -/
theorem decodeIsTheOpcodeMap : Obligations.DecodeIsTheOpcodeMap := by
  intro b i
  rw [decode_eq_ok_iff]
  cases i <;> simp [encode]

/-- Settles O2: `decode_encode`, which every command meets, well formed or not, and `encode_of_decode`. -/
theorem decodeInvertsEncode : Obligations.DecodeInvertsEncode :=
  ⟨fun i _ => decode_encode i, fun _ _ => encode_of_decode⟩

end Sys2Proof
end

section
/-! SUPPORT. The statements of a host script (spec/30_encoding.md R97): the accesses each stands for, and what a run of
them leaves in the buffers and hands the host. -/

namespace Sys2Proof.Machine

/-! ## The accesses of a statement -/

theorem runEvents_singleton (e : BusEvent) (s : State) : runEvents [e] s = doEvent e s := by
  rw [runEvents]
  cases doEvent e s <;> rfl

theorem writeBytesEvents_eq_mapIdx (b : Buf) (i : Nat) (bs : List Byte) :
    writeBytesEvents b i bs = bs.mapIdx fun k v => .bufWrite b (i + k) v := by
  induction bs generalizing i with
  | nil => rfl
  | cons v vs ih => simp [writeBytesEvents, ih, Nat.add_assoc, Nat.add_comm 1]

theorem readBytesEvents_eq_map (b : Buf) (i n : Nat) :
    readBytesEvents b i n = (List.range n).map fun k => .bufRead b (i + k) := by
  induction n generalizing i with
  | zero => rfl
  | succ n ih => simp [readBytesEvents, ih, List.range_succ_eq_map, Nat.add_assoc, Nat.add_comm 1]

/-- CMD's access writes a byte that decodes to the command, which runs with that byte in CMD (R25, R97). -/
theorem State.runEvents_expand_cmd (s : State) (i : Instr) :
    runEvents (s.expand (.cmd i)) s = exec i (s.setOps { s.ops with cmd := encode i }) := by
  have low : ((encode i).setWidth 64).setWidth 8 = encode i := by simp
  have run := doEvent_cmd_decoded s (v := (encode i).setWidth 64) (by rw [low, decode_encode])
  rw [State.writeReg, low] at run
  exact (runEvents_singleton _ s).trans run

/-- Settles O57: the byte accesses are lists indexed by `k`, CMD's one access is `runEvents_expand_cmd`. -/
theorem statementsStandForTheirAccesses : Obligations.StatementsStandForTheirAccesses := by
  intro s
  refine ⟨fun i => ⟨rfl, s.runEvents_expand_cmd i⟩, fun _ _ => rfl, fun _ => rfl, fun b i bytes => ?wb,
    fun b i count => ?rb⟩
  case wb =>
    rw [State.expand, writeBytesEvents_eq_mapIdx]
    exact ⟨by simp, fun k h => by simp [h]⟩
  case rb =>
    rw [State.expand, readBytesEvents_eq_map]
    exact ⟨by simp, fun k h => by simp [h]⟩

/-! ## Byte writes -/

section
variable {s t : State} {b : Buf} {i : Nat} {bs : List Byte}

/-- After byte writes from index `i` on, the bytes that lie below the buffer's size read back (R62). -/
theorem State.bufByte_putBytes_inside {k j : Nat} (h : k < bs.length) (hk : i + k = j) (hj : j < s.bufSize b)
    (hp : t.params = s.params := by rfl)
    (hm : t.mem b = (s.mem b).putBytes i (bs.take (s.bufSize b - i)) := by rfl) : t.bufByte b j = bs[k] := by
  subst hk
  have hs : t.bufSize b = s.bufSize b := by cases b <;> simp [State.bufSize, hp]
  have hl : k < (bs.take (s.bufSize b - i)).length := by rw [List.length_take]; omega
  refine State.bufByte_of_get (hs ▸ hj) ?_
  rw [hm, Memory.get_putBytes_inside _ _ _ hl, List.getElem_take]

/-- After byte writes from index `i` on, every byte before and behind them reads as before. -/
theorem State.bufByte_putBytes_outside {j : Nat} (h : j < i ∨ i + bs.length ≤ j) (hp : t.params = s.params := by rfl)
    (he : t.epoch = s.epoch := by rfl) (hm : t.mem b = (s.mem b).putBytes i (bs.take (s.bufSize b - i)) := by rfl) :
    t.bufByte b j = s.bufByte b j := by
  have hl := List.length_take_le' (s.bufSize b - i) bs
  refine State.bufByte_of_get_eq hp he ?_
  rw [hm, Memory.get_putBytes_outside _ _ _ (by omega)]

end

/-- Byte writes to PBUF of any index and length: the bytes below its size, nothing else (R62, R97). -/
theorem runEvents_writePbuf_take (s : State) (i : Nat) (bs : List Byte) :
    runEvents (writeBytesEvents .pbuf i bs) s =
      .next (s.setPbuf (s.pbuf.putBytes i (bs.take (s.params.pbufSize - i)))) := by
  rw [runEvents_writeBytes_take, show s.bufSize .pbuf = s.params.pbufSize from rfl]
  by_cases h : i ≤ s.params.pbufSize
  · exact runEvents_writePbuf s i _ (by rw [List.length_take]; omega)
  · rw [show s.params.pbufSize - i = 0 by omega]
    rfl

/-- Byte writes to IBUF of any index and length: the bytes below its size, the held frame invalid if there is one such
byte, nothing else (R39, R62, R97). -/
theorem runEvents_writeIbuf_take (s : State) (i : Nat) (bs : List Byte) :
    runEvents (writeBytesEvents .ibuf i bs) s =
      .next { s with
              ibuf := s.ibuf.putBytes i (bs.take (s.params.ibufSize - i))
              status :=
                if bs ≠ [] ∧ i < s.params.ibufSize then
                  { s.status with fkind := .none, walkActive := false, recValid := false }
                else s.status } := by
  rw [runEvents_writeBytes_take, show s.bufSize .ibuf = s.params.ibufSize from rfl]
  by_cases h : bs ≠ [] ∧ i < s.params.ibufSize
  · obtain ⟨t, run, state, -, invalid⟩ :=
      runEvents_writeIbuf s i (bs.take (s.params.ibufSize - i)) (by rw [List.length_take]; omega)
    have written : bs.take (s.params.ibufSize - i) ≠ [] := fun hnil =>
      (List.take_eq_nil_iff.1 hnil).elim (by omega) h.1
    rw [run, if_pos h, ← invalid written, state]
    rfl
  · have noneWritten : bs.take (s.params.ibufSize - i) = [] :=
      List.take_eq_nil_iff.2 ((not_and_or.1 h).symm.imp (by omega) not_not.1)
    rw [noneWritten, if_neg h]
    rfl

/-- Settles O58: one law of a run of byte writes for each buffer, and for the bytes `bufByte_putBytes_inside` and
`bufByte_putBytes_outside`. -/
theorem writeStatementFillsTheBuffer : Obligations.WriteStatementFillsTheBuffer := by
  intro s b i bytes
  cases b with
  | ibuf =>
    exact ⟨_, runEvents_writeIbuf_take s i bytes,
      fun k h _ hk => State.bufByte_putBytes_inside (s := s) (b := .ibuf) h rfl hk,
      fun j hj => State.bufByte_putBytes_outside (b := .ibuf) (hj.resolve_left nofun),
      fun _ => rfl, nofun, nofun⟩
  | pbuf =>
    exact ⟨_, runEvents_writePbuf_take s i bytes,
      fun k h _ hk => State.bufByte_putBytes_inside (s := s) (b := .pbuf) h rfl hk,
      fun j hj => State.bufByte_putBytes_outside (b := .pbuf) (hj.resolve_left nofun),
      nofun, fun _ => rfl, nofun⟩
  | obuf =>
    exact ⟨s, runEvents_writeObuf s i bytes, fun _ _ h => absurd rfl h, fun _ _ => rfl, nofun, nofun, fun _ => rfl⟩

/-! ## Loads -/

/-- A count that fits the length register is what the register takes (R24, R97). -/
theorem count_toNat {n : Nat} (h : n < 2 ^ 16) : ((BitVec.ofNat 64 n).setWidth 16).toNat = n := by
  simp only [BitVec.toNat_setWidth, BitVec.toNat_ofNat]
  omega

/-- Loading bytes into IBUF and their count, or any other value, into ILEN, as LOADI and LOOP do (R39, R62, R97). -/
theorem runEvents_loadIbuf_bytes (s : State) (bs : List Byte) (v : Wide) :
    ∃ t, runEvents (writeBytesEvents .ibuf 0 bs ++ [.regWrite Reg.ilen.num v]) s = .next t ∧
      (∀ i, ∀ h : i < bs.length, i < s.params.ibufSize → t.bufByte .ibuf i = bs[i]) ∧
      (∀ i, bs.length ≤ i → t.bufByte .ibuf i = s.bufByte .ibuf i) ∧
      t = { s with
            ibuf := t.ibuf
            ops := { s.ops with ilen := v.setWidth 16 }
            status := { s.status with fkind := .none, walkActive := false, recValid := false } } :=
  ⟨_, runEvents_loadIbuf_take s bs v,
    fun i h hi => State.bufByte_putBytes_inside (s := s) (b := .ibuf) h (Nat.zero_add i) hi,
    fun i hi => State.bufByte_putBytes_outside (i := 0) (bs := bs) (.inr (by rwa [Nat.zero_add])), rfl⟩

/-- Loading bytes into PBUF and their count, or any other value, into PLEN, as LOADP does (R62, R97). -/
theorem runEvents_loadPbuf_bytes (s : State) (bs : List Byte) (v : Wide) :
    ∃ t, runEvents (writeBytesEvents .pbuf 0 bs ++ [.regWrite Reg.plen.num v]) s = .next t ∧
      (∀ i, ∀ h : i < bs.length, i < s.params.pbufSize → t.bufByte .pbuf i = bs[i]) ∧
      (∀ i, bs.length ≤ i → t.bufByte .pbuf i = s.bufByte .pbuf i) ∧
      t = { s with pbuf := t.pbuf, ops := { s.ops with plen := v.setWidth 16 } } :=
  ⟨_, runEvents_loadPbuf_take s bs v,
    fun i h hi => State.bufByte_putBytes_inside (s := s) (b := .pbuf) h (Nat.zero_add i) hi,
    fun i hi => State.bufByte_putBytes_outside (i := 0) (bs := bs) (.inr (by rwa [Nat.zero_add])), rfl⟩

/-- Settles O18: a load of the listed bytes, whose count the length register keeps whole. -/
theorem loadStatementsFillTheBuffers : Obligations.LoadStatementsFillTheBuffers := by
  refine ⟨fun s bytes hn => ?loadi, fun s bytes hn => ?loadp⟩
  case loadi =>
    obtain ⟨t, run, inside, above, state⟩ := runEvents_loadIbuf_bytes s bytes (BitVec.ofNat 64 bytes.length)
    have count : t.ops.ilen = _ := congrArg (·.ops.ilen) state
    exact ⟨t, run, count ▸ count_toNat hn, inside, above, count ▸ state⟩
  case loadp =>
    obtain ⟨t, run, inside, above, state⟩ := runEvents_loadPbuf_bytes s bytes (BitVec.ofNat 64 bytes.length)
    have count : t.ops.plen = _ := congrArg (·.ops.plen) state
    exact ⟨t, run, count ▸ count_toNat hn, inside, above, count ▸ state⟩

/-- Settles O17: the step queues LOOP's expansion, a load of the bytes OBUF reads, all of which fit in IBUF. -/
theorem loopStatementCopiesTheBuild : Obligations.LoopStatementCopiesTheBuild := by
  intro s rest hp hs fits
  obtain ⟨t, run, inside, above, state⟩ :=
    runEvents_loadIbuf_bytes s (readBytes (s.bufByte .obuf) 0 s.olen.toNat) (s.olen.setWidth 64)
  have count : (s.olen.setWidth 64).setWidth 16 = s.olen := by simp
  rw [count] at state
  simp only [readBytes_length, readBytes_getElem, Nat.zero_add] at inside above
  exact ⟨s.expand .loop, step_script hp hs, t, run, fun i hi => inside i hi (hi.trans_le fits), above, state⟩

/-! ## Reads -/

theorem readBytes_eq_map (rd : Nat → Byte) (i n : Nat) : readBytes rd i n = (List.range n).map fun k => rd (i + k) :=
  List.ext_getElem (by simp) (by simp)

/-- Byte reads give the host the bytes in order, the newest first in its list, and change nothing of the block
(R68, R97). -/
theorem runEvents_readBytes (s : State) (b : Buf) (i n : Nat) :
    runEvents (readBytesEvents b i n) s =
      .next (s.setHost { s.host with
        reads := ((readBytes (s.bufByte b) i n).map (BitVec.setWidth 64)).reverse ++ s.host.reads }) := by
  induction n generalizing s i with
  | zero => rfl
  | succ n ih =>
    refine (ih (s.answerRead ((s.bufByte b i).setWidth 64)) (i + 1)).trans ?_
    have same : (s.answerRead ((s.bufByte b i).setWidth 64)).bufByte b = s.bufByte b :=
      funext fun j => State.bufByte_congr rfl rfl (by cases b <;> rfl) j
    rw [same, readBytes, List.map_cons, List.reverse_cons, List.append_assoc]
    rfl

/-- Settles O59: RD's read is one event, RB's are `runEvents_readBytes`. -/
theorem readStatementsReturnTheValues : Obligations.ReadStatementsReturnTheValues := by
  refine fun s => ⟨fun _ => rfl, fun b i count => ?_⟩
  rw [State.expand, runEvents_readBytes, readBytes_eq_map, List.map_map]
  rfl

end Sys2Proof.Machine
end

section
/-! SUPPORT. The record a WALK_NEXT emits (spec/30_encoding.md R93, spec/43_record_walk.md R173, R176). -/

namespace Sys2Proof.Machine

/-- The registers of the record at the cursor, by the layout of R93. -/
def State.cursorRecord (s : State) : RecRegs :=
  recordOf s.payloadByte s.cursorDif (if s.cursorE = 1 then s.payloadByte (s.cursor + 1) else 0) s.cursorVif
    (if s.cursorV = 1 then s.payloadByte (s.cursor + 2 + s.cursorE) else 0) s.cursorData s.cursorLen

/-- A WALK_NEXT whose record fits emits it, and its whole next state (R176). -/
theorem execWalkNext_emits {s : State} (active : s.status.walkActive = true) (fits : s.cursorFits) :
    exec .walkNext s = .next { s with
      record := s.cursorRecord
      errcode := .ok
      walk := { s.walk with off := BitVec.ofNat 16 (s.cursorData + s.cursorLen), index := s.walk.index + 1 }
      status := { s.status with err := false, recValid := true } } := by
  refine (execWalkNext_looks active).trans ?_
  rw [State.walkFind_fits fits]
  rfl

/-- The header registers of the emitted record: the interpretation writes none of them (R174). -/
theorem State.cursorRecord_header (s : State) :
    s.cursorRecord.dif = s.cursorDif ∧ s.cursorRecord.vif = s.cursorVif ∧
      s.cursorRecord.dife = (if s.cursorE = 1 then s.payloadByte (s.cursor + 1) else 0) ∧
      s.cursorRecord.vife = (if s.cursorV = 1 then s.payloadByte (s.cursor + 2 + s.cursorE) else 0) ∧
      s.cursorRecord.flags = recFlags s.cursorDif s.cursorVif ∧
      s.cursorRecord.storage = storageNumber s.cursorDif s.cursorRecord.dife := by
  rw [cursorRecord, recordOf, interpret_keeps]
  exact ⟨rfl, rfl, rfl, rfl, rfl, rfl⟩

/-- REC_RAW of the emitted record holds all its data bytes, eight at most (R36, R90). -/
theorem State.cursorRecord_raw (s : State) :
    s.cursorRecord.raw.toNat = valueOf s.payloadByte s.cursorData s.cursorLen := by
  have small : valueOf s.payloadByte s.cursorData s.cursorLen < 2 ^ 64 :=
    (valueOf_lt _ _ _).trans_le (Nat.pow_le_pow_right (n := 256) (by decide) (dataLength_le s.cursorCode))
  rw [cursorRecord, recordOf, interpret_keeps]
  show (BitVec.ofNat 64 _).toNat = _
  rw [leValue_readBytes, BitVec.toNat_ofNat, Nat.mod_eq_of_lt small]

/-- Settles O37: the next state is `execWalkNext_emits`, and its registers lose nothing of the record at the cursor. -/
theorem walkNextEmitsTheRecord : Obligations.WalkNextEmitsTheRecord := by
  refine ⟨rfl, fun s active fits => ?_⟩
  obtain ⟨dif, vif, dife, vife, flags, storage⟩ := s.cursorRecord_header
  obtain ⟨rawOff, len⟩ : s.cursorRecord.rawOff = _ ∧ s.cursorRecord.len = _ := recordOf_place ..
  obtain ⟨offFits, rawOffFits, lenFits⟩ := fits.place
  refine ⟨_, execWalkNext_emits active fits, dif, vif, dife, vife, ?flags, ?storage, ?len, ?rawOff, s.cursorRecord_raw,
    offFits, rfl⟩
  case flags => exact (congrArg BitVec.toNat flags).trans (recFlags_toNat ..)
  case storage => exact (congrArg BitVec.toNat storage).trans (storageNumber_toNat ..)
  case len => exact (congrArg BitVec.toNat len).trans lenFits
  case rawOff => exact (congrArg BitVec.toNat rawOff).trans rawOffFits

end Sys2Proof.Machine
end

section
/-! SUPPORT. The builds (spec/40_frame_build.md R100 to R105): the checksums of the frames in plain arithmetic, the frames
read back from OBUF by offset, and the builds' independence of the held frame. -/

namespace Sys2Proof.Machine

/-! ## The frames written -/

/-- The short frame's checksum covers C and A (R101). -/
theorem sum8_pair_toNat (c a : Byte) : (sum8 [c, a]).toNat = (c.toNat + a.toNat) % 256 := by
  rw [sum8_pair, BitVec.toNat_add]

@[simp] theorem State.payloadOperand_length (s : State) : s.payloadOperand.length = s.ops.plen.toNat :=
  readBytes_length _ _ _

theorem State.payloadOperand_getElem (s : State) {k : Nat} (h : k < s.payloadOperand.length) :
    s.payloadOperand[k] = s.bufByte .pbuf k :=
  (readBytes_getElem _ _ _ h).trans (congrArg _ (Nat.zero_add k))

/-- The long frame's checksum covers C, A, CI and the payload operand (R103). -/
theorem State.sum8_longFrame_toNat (s : State) (c a ci : Byte) :
    (sum8 (c :: a :: ci :: s.payloadOperand)).toNat =
      (c.toNat + a.toNat + ci.toNat + totalOf (s.bufByte .pbuf) 0 s.ops.plen.toNat) % 256 := by
  simp only [sum8_toNat, byteTotal, State.payloadOperand, byteTotal_readBytes, Nat.add_assoc]

/-- The OLEN of a legal long frame does not wrap (R102). -/
theorem plen_add_nine_toNat {n : Half} (h : n.toNat ≤ 252) : (n + 9#16).toNat = n.toNat + 9 :=
  BitVec.toNat_add_of_lt (by rw [BitVec.toNat_ofNat]; omega)

/-- The state a successful build leaves: `bs` in OBUF from index 0, OLEN `n` (R100, R102). -/
def State.built (s : State) (bs : List Byte) (n : Half) : State :=
  ((s.setObuf (s.obuf.putBytes 0 bs)).setOlen n).report false .ok

theorem execBuildShort_built (s : State) : exec .buildShort s = .next (s.built (shortFrame s.ops.opC s.ops.opA) 5#16) :=
  rfl

theorem execBuildLong_built {s : State} (fits : s.ops.plen.toNat ≤ s.params.pbufSize) (short : s.ops.plen.toNat ≤ 252) :
    exec .buildLong s =
      .next (s.built (longFrame s.ops.opC s.ops.opA s.ops.opCI s.payloadOperand) (s.ops.plen + 9#16)) :=
  execBuildLong_builds (Nat.not_lt.2 fits) (Nat.not_lt.2 short)

/-- After a build OBUF reads the bytes written, and above them what it read before. -/
theorem State.bufByte_built (s : State) (bs : List Byte) (n : Half) :
    (∀ k v, bs[k]? = some v → k < 261 → (s.built bs n).bufByte .obuf k = v) ∧
      ∀ k, bs.length ≤ k → (s.built bs n).bufByte .obuf k = s.bufByte .obuf k :=
  bufByte_obuf_putBytes rfl rfl rfl

/-- Settles O19: OBUF reads the short frame at its offsets and the old bytes above it. -/
theorem buildShortResult : Obligations.BuildShortResult := by
  refine ⟨rfl, fun s => ⟨_, execBuildShort_built s, ?_⟩⟩
  obtain ⟨frame, above⟩ := s.bufByte_built (shortFrame s.ops.opC s.ops.opA) 5#16
  have chk := congrArg BitVec.toNat (frame 3 _ rfl (by decide))
  exact ⟨frame 0 _ rfl (by decide), frame 1 _ rfl (by decide), frame 2 _ rfl (by decide),
    chk.trans (sum8_pair_toNat ..), frame 4 _ rfl (by decide), above, rfl⟩

/-- Settles O20: each failing check is a branch of `execBuildLong`; on success OBUF reads the long frame at its offsets,
all inside OBUF for a payload of at most 252 bytes. -/
theorem buildLongResult : Obligations.BuildLongResult := by
  refine ⟨rfl, fun s => ⟨execBuildLong_tooBig, fun fits long => execBuildLong_tooLong (Nat.not_lt.2 fits) long,
    fun fits short => ⟨_, execBuildLong_built fits short, ?_⟩⟩⟩
  obtain ⟨frame, above⟩ :=
    s.bufByte_built (longFrame s.ops.opC s.ops.opA s.ops.opCI s.payloadOperand) (s.ops.plen + 9#16)
  have len := s.payloadOperand_length
  have lengthByte : (longLength s.payloadOperand.length).toNat = s.ops.plen.toNat + 3 := by
    simp [longLength_toNat short]
  have chk := longFrame_chk s.ops.opC s.ops.opA s.ops.opCI s.payloadOperand
  have stop := longFrame_stop s.ops.opC s.ops.opA s.ops.opCI s.payloadOperand
  rw [len, Nat.add_comm] at chk stop
  refine ⟨frame 0 _ rfl (by decide), ?length1, ?length2, frame 3 _ rfl (by decide), frame 4 _ rfl (by decide),
    frame 5 _ rfl (by decide), frame 6 _ rfl (by decide), fun i hi => ?payload, ?chk, frame _ _ stop (by omega),
    fun i hi => above i (by simpa using hi), plen_add_nine_toNat short, rfl⟩
  case length1 => exact (congrArg BitVec.toNat (frame 1 _ rfl (by decide))).trans lengthByte
  case length2 => exact (congrArg BitVec.toNat (frame 2 _ rfl (by decide))).trans lengthByte
  case payload =>
    have inside : i < s.payloadOperand.length := len.symm ▸ hi
    exact (frame _ _ (longFrame_payload _ _ _ _ inside) (by omega)).trans (s.payloadOperand_getElem inside)
  case chk => exact (congrArg BitVec.toNat (frame _ _ chk (by omega))).trans (s.sum8_longFrame_toNat ..)

/-- Settles O21: the two branches of `execChecksum`, and the truncated sum of consecutive bytes. -/
theorem checksumResult : Obligations.ChecksumResult :=
  ⟨rfl, fun _ => ⟨execChecksum_tooBig, fun fits =>
    ⟨_, execChecksum_sums (Nat.not_lt.2 fits), sum8_readBytes_toNat _ _ _, rfl⟩⟩⟩

/-! ## The held frame -/

/-- A build run over other contents of IBUF takes the same branch and leaves those contents (R105). -/
theorem exec_build_setIbuf {i : Instr} {s t : State} (hi : i = .buildShort ∨ i = .buildLong ∨ i = .checksum)
    (h : exec i s = .next t) (m : Memory) : exec i (s.setIbuf m) = .next (t.setIbuf m) := by
  cases effect_of_exec h with
  | buildsShort => rfl
  | buildsLong _ fits short => exact execBuildLong_builds (s := s.setIbuf m) (Nat.not_lt.2 fits) (Nat.not_lt.2 short)
  | buildTooBig _ big => exact execBuildLong_tooBig (s := s.setIbuf m) big
  | buildTooLong _ fits long => exact execBuildLong_tooLong (s := s.setIbuf m) (Nat.not_lt.2 fits) long
  | sums _ fits => exact execChecksum_sums (s := s.setIbuf m) (Nat.not_lt.2 fits)
  | sumTooBig _ big => exact execChecksum_tooBig (s := s.setIbuf m) big
  | rejects _ _ _ family => rcases family with rfl | rfl | rfl <;> simp at hi
  | _ => simp at hi

/-- Settles O22: the reads by `exec_build_setIbuf`, the writes by what every command keeps outside its family. -/
theorem buildsNeverTouchTheHeldFrame : Obligations.BuildsNeverTouchTheHeldFrame := by
  intro i hi s
  obtain ⟨t, run, -⟩ := exec_effect i s
  obtain ⟨-, ops, -, ibuf, -⟩ := exec_keeps_inputs run
  obtain ⟨active, -, fkind⟩ : s.sameFlags t := exec_keeps_flags run (by tauto)
  have walk : t.walk = s.walk := (exec_keeps_walker run (by rintro rfl; simp at hi) (by rintro rfl; simp at hi)).2
  exact ⟨t, run, exec_build_setIbuf hi run, ibuf, congrArg (·.ilen) ops, fkind, active, walk⟩

end Sys2Proof.Machine
end

section
/-! SUPPORT. The validators (spec/41_frame_validate.md R120 to R129): the answer of their checks, check by check in order; what
a pass depends on; and what outlives a held frame. -/

namespace Sys2Proof.Machine

/-! ## The checks of a short frame, in order (R121) -/

section
variable {rd : Nat → Byte} {len : Nat}

theorem shortFrameError_tooShort (h : len < 5) : shortFrameError rd len = some .tooShort := if_pos h

section
variable (long : 5 ≤ len)
include long

theorem shortFrameError_start (h : rd 0 ≠ shortStart) : shortFrameError rd len = some .start :=
  (if_neg (Nat.not_lt.2 long)).trans (if_pos h)

variable (start : rd 0 = shortStart)
include start

theorem shortFrameError_stop (h : rd 4 ≠ stopByte) : shortFrameError rd len = some .stop := by
  rw [shortFrameError, if_neg (Nat.not_lt.2 long), if_neg (not_not_intro start), if_pos h]

theorem shortFrameError_checksum (stop : rd 4 = stopByte) (h : rd 3 ≠ sum8 (readBytes rd 1 2)) :
    shortFrameError rd len = some .checksum := by
  rw [shortFrameError, if_neg (Nat.not_lt.2 long), if_neg (not_not_intro start), if_neg (not_not_intro stop), if_pos h]

end

/-- RES_CHK of an accepted short frame is its CHK byte (R121). -/
theorem shortFrameRes_of_pass (pass : shortFrameError rd len = none) :
    shortFrameRes rd = { ResRegs.zero with len := 5#16, c := rd 1, a := rd 2, chk := rd 3 } := by
  obtain ⟨-, -, -, chk⟩ := (shortFrameError_eq_none_iff rd len).1 pass
  rw [shortFrameRes, chk]

/-- The short frame's checksum is compared with C + A (R121). -/
theorem eq_sum8_pair_iff (rd : Nat → Byte) (x : Byte) :
    x = sum8 (readBytes rd 1 2) ↔ x.toNat = ((rd 1).toNat + (rd 2).toNat) % 256 := by
  rw [← sum8_pair_toNat]
  exact ⟨congrArg _, BitVec.eq_of_toNat_eq⟩

/-! ## The checks of a long frame, in order (R124) -/

theorem longFrameError_tooShort (h : len < 9) : longFrameError rd len = some .tooShort := if_pos h

section
variable (long : 9 ≤ len)
include long

theorem longFrameError_lenMismatch (h : rd 1 ≠ rd 2) : longFrameError rd len = some .lenMismatch :=
  (if_neg (Nat.not_lt.2 long)).trans (if_pos h)

variable (same : rd 1 = rd 2)
include same

theorem longFrameError_start (h : rd 0 ≠ longStart ∨ rd 3 ≠ longStart) : longFrameError rd len = some .start := by
  rw [longFrameError, if_neg (Nat.not_lt.2 long), if_neg (not_not_intro same), if_pos h]

variable (start : rd 0 = longStart ∧ rd 3 = longStart)
include start

/-- The checks after the start bytes are those of the length field and what it places. -/
theorem longFrameError_started : longFrameError rd len =
    if (rd 1).toNat < 3 then some .lenField
    else if len < (rd 1).toNat + 6 then some .lenExceeds
    else if rd ((rd 1).toNat + 5) ≠ stopByte then some .stop
    else if rd ((rd 1).toNat + 4) ≠ sum8 (readBytes rd 4 (rd 1).toNat) then some .checksum
    else none := by
  rw [longFrameError, if_neg (Nat.not_lt.2 long), if_neg (not_not_intro same), if_neg (by simp [start])]

theorem longFrameError_lenField (h : (rd 1).toNat < 3) : longFrameError rd len = some .lenField := by
  rw [longFrameError_started long same start, if_pos h]

variable (field : 3 ≤ (rd 1).toNat)
include field

theorem longFrameError_lenExceeds (h : len < (rd 1).toNat + 6) : longFrameError rd len = some .lenExceeds := by
  rw [longFrameError_started long same start, if_neg (Nat.not_lt.2 field), if_pos h]

variable (fits : (rd 1).toNat + 6 ≤ len)
include fits

theorem longFrameError_stop (h : rd ((rd 1).toNat + 5) ≠ stopByte) : longFrameError rd len = some .stop := by
  rw [longFrameError_started long same start, if_neg (Nat.not_lt.2 field), if_neg (Nat.not_lt.2 fits), if_pos h]

theorem longFrameError_checksum (stop : rd ((rd 1).toNat + 5) = stopByte)
    (h : rd ((rd 1).toNat + 4) ≠ sum8 (readBytes rd 4 (rd 1).toNat)) : longFrameError rd len = some .checksum := by
  rw [longFrameError_started long same start, if_neg (Nat.not_lt.2 field), if_neg (Nat.not_lt.2 fits),
    if_neg (not_not_intro stop), if_pos h]

end

/-- RES_CHK of an accepted long frame is its CHK byte (R124). -/
theorem longFrameRes_of_pass (pass : longFrameError rd len = none) :
    longFrameRes rd = { longFrameRes rd with chk := rd ((rd 1).toNat + 4) } := by
  obtain ⟨-, -, -, -, -, -, -, chk⟩ := (longFrameError_eq_none_iff rd len).1 pass
  rw [longFrameRes, chk]

/-! ## The check of the marker (R127) -/

theorem ackError_length (h : len ≠ 1) : ackError rd len = some .notAck := if_pos h

theorem ackError_byte (one : len = 1) (h : rd 0 ≠ ackByte) : ackError rd len = some .notAck :=
  (if_neg (not_not_intro one)).trans (if_pos h)

end

/-! ## The commands -/

theorem execCheckAck_rejects {s : State} {e : ErrCode} (h : s.ops.ilen.toNat ≤ s.params.ibufSize)
    (he : ackError (s.bufByte .ibuf) s.ops.ilen.toNat = some e) : execCheckAck s = .next (s.rejected e) := by
  rw [execCheckAck, he]
  exact validateWith_some h

theorem execCheckAck_accepts {s : State} (h : s.ops.ilen.toNat ≤ s.params.ibufSize)
    (hn : ackError (s.bufByte .ibuf) s.ops.ilen.toNat = none) :
    execCheckAck s = .next (s.accepted .ack { ResRegs.zero with len := 1#16 }) := by
  rw [execCheckAck, hn]
  exact validateWith_none h

/-- Settles O23: one lemma for each check, and RES_CHK of a pass by `shortFrameRes_of_pass`. -/
theorem validateShortChecksInOrder : Obligations.ValidateShortChecksInOrder := by
  refine ⟨rfl, ?_⟩
  rintro s _ _ _ rfl rfl rfl
  refine ⟨validateWith_tooBig, fun fits short => ?tooShort, fun fits long h => ?start, fun fits long start h => ?stop,
    fun fits long start stop h => ?checksum, fun fits long start stop chk => ?accepts⟩
  case tooShort => exact execValidateShort_rejects fits (shortFrameError_tooShort short)
  case start => exact execValidateShort_rejects fits (shortFrameError_start long h)
  case stop => exact execValidateShort_rejects fits (shortFrameError_stop long start h)
  case checksum =>
    exact execValidateShort_rejects fits (shortFrameError_checksum long start stop (mt (eq_sum8_pair_iff _ _).1 h))
  case accepts =>
    have pass := (shortFrameError_eq_none_iff _ _).2 ⟨long, start, stop, (eq_sum8_pair_iff _ _).2 chk⟩
    exact shortFrameRes_of_pass pass ▸ execValidateShort_accepts fits pass

/-- Settles O24: one lemma for each check, and RES_CHK of a pass by `longFrameRes_of_pass`. -/
theorem validateLongChecksInOrder : Obligations.ValidateLongChecksInOrder := by
  refine ⟨rfl, ?_⟩
  rintro s _ _ _ _ rfl rfl rfl rfl
  refine ⟨validateWith_tooBig, fun fits short => ?tooShort, fun fits long h => ?lenMismatch,
    fun fits long same h => ?start, fun fits long same s0 s3 h => ?lenField,
    fun fits long same s0 s3 field h => ?lenExceeds, fun fits long same s0 s3 field inside h => ?stop,
    fun fits long same s0 s3 field inside stop h => ?checksum,
    fun fits long same s0 s3 field inside stop chk => ?accepts⟩
  case tooShort => exact execValidateLong_rejects fits (longFrameError_tooShort short)
  case lenMismatch => exact execValidateLong_rejects fits (longFrameError_lenMismatch long h)
  case start => exact execValidateLong_rejects fits (longFrameError_start long same h)
  case lenField => exact execValidateLong_rejects fits (longFrameError_lenField long same ⟨s0, s3⟩ h)
  case lenExceeds => exact execValidateLong_rejects fits (longFrameError_lenExceeds long same ⟨s0, s3⟩ field h)
  case stop => exact execValidateLong_rejects fits (longFrameError_stop long same ⟨s0, s3⟩ field inside h)
  case checksum =>
    exact execValidateLong_rejects fits
      (longFrameError_checksum long same ⟨s0, s3⟩ field inside stop (mt (eq_sum8_iff _ _ _ _).1 h))
  case accepts =>
    have pass := (longFrameError_eq_none_iff _ _).2
      ⟨long, same, s0, s3, field, inside, stop, (eq_sum8_iff _ _ _ _).2 chk⟩
    exact longFrameRes_of_pass pass ▸ execValidateLong_accepts fits pass

/-- Settles O25: the two checks of `ackError`, and `ackError_eq_none_iff`. -/
theorem checkAckWantsExactlyTheMarker : Obligations.CheckAckWantsExactlyTheMarker :=
  ⟨rfl, fun _ => ⟨validateWith_tooBig, fun fits h => execCheckAck_rejects fits (ackError_length h),
    fun fits one h => execCheckAck_rejects fits (ackError_byte one h),
    fun fits one marker => execCheckAck_accepts fits ((ackError_eq_none_iff _ _).2 ⟨one, marker⟩)⟩⟩

/-- Settles O27: no bytes are too few for either frame, and not the one byte of the marker. -/
theorem emptyBufferFailsValidation : Obligations.EmptyBufferFailsValidation := by
  intro s empty
  have zero : s.ops.ilen.toNat = 0 := congrArg BitVec.toNat empty
  have fits : s.ops.ilen.toNat ≤ s.params.ibufSize := zero ▸ Nat.zero_le _
  exact ⟨execValidateShort_rejects fits (shortFrameError_tooShort (by omega)),
    execValidateLong_rejects fits (longFrameError_tooShort (by omega)),
    execCheckAck_rejects fits (ackError_length (by omega))⟩

/-- Everything a validate-family command can do: reject, with the operand error exactly when ILEN is above IBUF_SIZE, or
accept (R120). -/
theorem exec_validate_cases {i : Instr} {s t : State} (hi : i = .validateShort ∨ i = .validateLong ∨ i = .checkAck)
    (h : exec i s = .next t) :
    (∃ e, (e = .operand ↔ s.params.ibufSize < s.ops.ilen.toNat) ∧ t = s.rejected e) ∨
      (s.ops.ilen.toNat ≤ s.params.ibufSize ∧ ∃ kind r, t = s.accepted kind r) := by
  cases effect_of_exec h with
  | rejects _ _ e _ _ operand => exact .inl ⟨e, operand, rfl⟩
  | acceptsShort _ fits | acceptsLong _ fits | acceptsAck _ fits => exact .inr ⟨fits, _, _, rfl⟩
  | _ => simp at hi

/-- Settles O26: a rejection clears everything named, an acceptance reports OK. -/
theorem failedValidationLeavesNothing : Obligations.FailedValidationLeavesNothing := by
  intro i hi s
  obtain ⟨t, run, -⟩ := exec_effect i s
  refine ⟨t, run, ?_⟩
  rcases exec_validate_cases hi run with ⟨e, operand, rfl⟩ | ⟨fits, kind, r, rfl⟩
  · exact ⟨fun big => ⟨rfl, operand.2 big⟩, rfl, rfl, rfl, fun _ => ⟨rfl, rfl, rfl⟩⟩
  · exact ⟨fun big => absurd fits (Nat.not_le.2 big), rfl, rfl, rfl, fun failed => absurd rfl failed⟩

/-! ## Trailing bytes (R122, R125) -/

/-- The short-frame checks pass on any length from 5 on, or on none. -/
theorem shortFrameError_none_iff_five (rd : Nat → Byte) (len : Nat) :
    shortFrameError rd len = none ↔ 5 ≤ len ∧ shortFrameError rd 5 = none := by
  simp [shortFrameError_eq_none_iff]

/-- The long-frame checks pass on any length from L + 6 on, or on none. -/
theorem longFrameError_none_iff_consumed (rd : Nat → Byte) (len : Nat) :
    longFrameError rd len = none ↔
      (rd 1).toNat + 6 ≤ len ∧ longFrameError rd ((rd 1).toNat + 6) = none := by
  rw [longFrameError_eq_none_iff, longFrameError_eq_none_iff]
  constructor
  · rintro ⟨-, same, s0, s3, field, inside, rest⟩
    exact ⟨inside, by omega, same, s0, s3, field, le_rfl, rest⟩
  · rintro ⟨inside, long, same, s0, s3, field, -, rest⟩
    exact ⟨by omega, same, s0, s3, field, inside, rest⟩

/-- RES_LEN of a long frame does not wrap (R125). -/
theorem longFrameRes_len_toNat (rd : Nat → Byte) : (longFrameRes rd).len.toNat = (rd 1).toNat + 6 := by
  have := (rd 1).isLt
  rw [longFrameRes, BitVec.toNat_ofNat]
  omega

/-- A VALIDATE_SHORT over the same five bytes as an accepted one, whatever follows them. -/
theorem execValidateShort_same {s u : State} (fits : u.ops.ilen.toNat ≤ u.params.ibufSize) (long : 5 ≤ u.ops.ilen.toNat)
    (pass : shortFrameError (s.bufByte .ibuf) s.ops.ilen.toNat = none)
    (bytes : ∀ i, i < 5 → u.bufByte .ibuf i = s.bufByte .ibuf i) :
    execValidateShort u = .next (u.accepted .short (shortFrameRes (s.bufByte .ibuf))) := by
  obtain ⟨-, pass5⟩ := (shortFrameError_none_iff_five _ _).1 pass
  have pass' := (shortFrameError_none_iff_five _ _).2 ⟨long, (shortFrameError_congr bytes).trans pass5⟩
  exact shortFrameRes_congr bytes pass5 ▸ execValidateShort_accepts fits pass'

/-- A VALIDATE_LONG over the same L + 6 bytes as an accepted one, whatever follows them. -/
theorem execValidateLong_same {s u : State} (fits : u.ops.ilen.toNat ≤ u.params.ibufSize)
    (long : (s.bufByte .ibuf 1).toNat + 6 ≤ u.ops.ilen.toNat)
    (pass : longFrameError (s.bufByte .ibuf) s.ops.ilen.toNat = none)
    (bytes : ∀ i, i < (s.bufByte .ibuf 1).toNat + 6 → u.bufByte .ibuf i = s.bufByte .ibuf i) :
    execValidateLong u = .next (u.accepted .long (longFrameRes (s.bufByte .ibuf))) := by
  obtain ⟨-, passL⟩ := (longFrameError_none_iff_consumed _ _).1 pass
  have lengthByte := bytes 1 (by omega)
  have pass' : longFrameError (u.bufByte .ibuf) u.ops.ilen.toNat = none := by
    rw [longFrameError_none_iff_consumed, lengthByte]
    exact ⟨long, (longFrameError_congr bytes).trans passL⟩
  exact longFrameRes_congr bytes passL ▸ execValidateLong_accepts fits pass'

/-- Settles O28: a pass at any length is a pass at the consumed one, below which the two states agree. -/
theorem trailingBytesAreNotRead : Obligations.TrailingBytesAreNotRead := by
  refine fun s u fits => ⟨fun t run ok => ?short, fun t run ok => ?long⟩
  case short =>
    obtain ⟨-, pass, rfl⟩ := execValidateShort_ok run ok
    exact ⟨rfl, fun long bytes => execValidateShort_same fits long pass bytes⟩
  case long =>
    obtain ⟨-, pass, rfl⟩ := execValidateLong_ok run ok
    exact ⟨longFrameRes_len_toNat _, fun long bytes => execValidateLong_same fits long pass bytes⟩

/-! ## What a held frame outlives (R129) -/

theorem ResRegs.agrees.eq_with_chk {q r : ResRegs} (h : q.agrees r) : q = { r with chk := q.chk } :=
  congrArg (fun x : ResRegs => { x with chk := q.chk }) h

/-- No register but ILEN bears on the held frame, its kind and fields (R39). -/
theorem State.writeReg_keeps_frame (s : State) {r : Reg} (v : Wide) (h : r ≠ .ilen) :
    (s.writeReg r v).status = s.status ∧ (s.writeReg r v).res = s.res := by
  rcases s.writeReg_cases r v with hw | ⟨hr, -⟩ | ⟨-, -, hw⟩
  · rw [hw]
    exact ⟨rfl, rfl⟩
  · exact absurd hr h
  · rw [hw]
    exact ⟨rfl, rfl⟩

/-- No buffer but IBUF bears on the held frame, its kind and fields (R39). -/
theorem State.hostWriteByte_keeps_frame (s : State) {b : Buf} (i : Nat) (v : Byte) (h : b ≠ .ibuf) :
    (s.hostWriteByte b i v).status = s.status ∧ (s.hostWriteByte b i v).res = s.res := by
  rcases s.hostWriteByte_cases b i v with hw | ⟨hb, -⟩ | ⟨-, -, hw⟩
  · rw [hw]
    exact ⟨rfl, rfl⟩
  · exact absurd hb h
  · rw [hw]
    exact ⟨rfl, rfl⟩

/-- Every access but a write to IBUF, ILEN or CMD, and a reset, keeps STATUS and the RES_* registers. -/
theorem doEvent_keeps_frame {e : BusEvent} {s t : State} (hb : ∀ i v, e ≠ .bufWrite .ibuf i v)
    (hl : ∀ v, e ≠ .regWrite Reg.ilen.num v) (hc : ∀ v, e ≠ .regWrite Reg.cmd.num v) (hr : e ≠ .reset)
    (h : doEvent e s = .next t) : t.status = s.status ∧ t.res = s.res := by
  cases e with
  | regRead | bufRead =>
    cases h
    exact ⟨rfl, rfl⟩
  | reset => exact absurd rfl hr
  | bufWrite b i v =>
    cases h
    exact s.hostWriteByte_keeps_frame i v (by rintro rfl; exact hb i v rfl)
  | regWrite num v =>
    have notCmd : Reg.ofNum num ≠ some .cmd := fun hn => hc v (Reg.num_of_ofNum hn ▸ rfl)
    rcases hostWriteReg_cases h with ⟨-, rfl⟩ | ⟨r, hn, -, rfl⟩ | ⟨_, hn, -⟩ | ⟨_, hn, -⟩
    · exact ⟨rfl, rfl⟩
    · exact s.writeReg_keeps_frame v (by rintro rfl; exact hl v (Reg.num_of_ofNum hn ▸ rfl))
    · exact absurd hn notCmd
    · exact absurd hn notCmd

/-- Settles O29: the commands by `exec_keeps_frame`, the illegal one by its one effect, the accesses by
`doEvent_keeps_frame`. -/
theorem heldFrameOutlivesOtherCommands : Obligations.HeldFrameOutlivesOtherCommands := by
  refine ⟨fun i hs hl ha s => ?command, fun s v r hd => ⟨_, doEvent_cmd_illegal s hd, rfl, rfl⟩,
    fun s t e hb hl hc hr h => ?access⟩
  case command =>
    obtain ⟨t, run, -⟩ := exec_effect i s
    obtain ⟨-, -, -, ibuf, -⟩ := exec_keeps_inputs run
    obtain ⟨agree, same, fkind⟩ := exec_keeps_frame run hs hl ha
    refine ⟨t, run, fkind, ibuf, ?_⟩
    split
    · exact agree.eq_with_chk
    next notChecksum => exact same notChecksum
  case access =>
    obtain ⟨status, res⟩ := doEvent_keeps_frame hb hl hc hr h
    exact ⟨congrArg (·.fkind) status, res⟩

end Sys2Proof.Machine
end

section
/-! SUPPORT. Frames in place in IBUF (spec/41_frame_validate.md R126): a built frame looped back validates, and one with a byte
of its framing changed is rejected by that byte's check. -/

namespace Sys2Proof.Machine

/-! ## A frame in place -/

/-- `rd` reads the bytes of `bs` from index 0 on, but for the one at `k`, of which nothing is said. -/
def readsBut (rd : Nat → Byte) (bs : List Byte) (k : Nat) : Prop := ∀ j v, j ≠ k → bs[j]? = some v → rd j = v

theorem State.holds.reads {s : State} {bs : List Byte} (h : s.holds bs) (k : Nat) :
    readsBut (s.bufByte .ibuf) bs k :=
  fun _ _ _ hv => State.holds_getElem? h hv

/-- With one byte of the list replaced IBUF reads the others, and the new one in its place. -/
theorem State.holds.of_set {s : State} {bs : List Byte} {k : Nat} {x : Byte} (h : s.holds (bs.set k x))
    (hk : k < bs.length) :
    readsBut (s.bufByte .ibuf) bs k ∧ s.bufByte .ibuf k = x ∧ s.ops.ilen.toNat = bs.length := by
  refine ⟨fun j v hj hv => State.holds_getElem? h ?_, State.holds_getElem? h (List.getElem?_set_self hk),
    h.1.trans List.length_set⟩
  rwa [List.getElem?_set_ne hj.symm]

/-- A held list no longer than the smallest IBUF passes the operand check (R7). -/
theorem State.ilen_fits {s : State} {n : Nat} (ok : s.params.ok) (len : s.ops.ilen.toNat = n) (hn : n ≤ 261) :
    s.ops.ilen.toNat ≤ s.params.ibufSize :=
  len.trans_le (hn.trans ok.1)

/-- LOOP after a build: IBUF holds the frame built, ILEN its length (R97). -/
theorem State.loop_built {s : State} {bs : List Byte} {n : Half} (ok : s.params.ok) (len : n.toNat = bs.length)
    (short : bs.length ≤ 261) :
    ∃ l, runEvents ((s.built bs n).expand .loop) (s.built bs n) = .next l ∧ l.ops.ilen = n ∧ l.params = s.params ∧
      l.holds bs := by
  obtain ⟨l, run, inside, -, state⟩ := runEvents_loadIbuf_bytes (s.built bs n)
    (readBytes ((s.built bs n).bufByte .obuf) 0 n.toNat) (n.setWidth 64)
  have ilen : l.ops.ilen = n := (congrArg (·.ops.ilen) state).trans (by simp)
  obtain ⟨frame, -⟩ := s.bufByte_built bs n
  refine ⟨l, run, ilen, congrArg (·.params) state, (congrArg BitVec.toNat ilen).trans len, fun i hi => ?_⟩
  have small : i < s.params.ibufSize := hi.trans_le (short.trans ok.1)
  rw [inside i (by simpa [len] using hi) small, readBytes_getElem, Nat.zero_add]
  exact frame i _ (List.getElem?_eq_getElem hi) (hi.trans_le short)

/-! ## Short frames -/

section
variable {s : State} {c a x : Byte}

/-- A short frame in place passes every check, and RES_C and RES_A are its C and A (R121). -/
theorem State.holds.shortFrame_passes (h : s.holds (shortFrame c a)) :
    shortFrameError (s.bufByte .ibuf) s.ops.ilen.toNat = none ∧ (shortFrameRes (s.bufByte .ibuf)).c = c ∧
      (shortFrameRes (s.bufByte .ibuf)).a = a := by
  have byte {k : Nat} {v : Byte} : (shortFrame c a)[k]? = some v → s.bufByte .ibuf k = v := State.holds_getElem? h
  have byteC : s.bufByte .ibuf 1 = c := byte rfl
  have byteA : s.bufByte .ibuf 2 = a := byte rfl
  have sum : sum8 (readBytes (s.bufByte .ibuf) 1 2) = sum8 [c, a] := by rw [← byteC, ← byteA]; rfl
  exact ⟨(shortFrameError_eq_none_iff _ _).2 ⟨h.1.ge, byte rfl, byte rfl, (byte rfl).trans sum.symm⟩, byteC, byteA⟩

end

/-- Settles O30: LOOP leaves the short frame held, and a short frame held passes with its C and A. -/
theorem shortFrameRoundTrip : Obligations.ShortFrameRoundTrip := by
  intro s ok
  obtain ⟨l, loop, ilen, params, held⟩ :=
    State.loop_built (s := s) (bs := shortFrame s.ops.opC s.ops.opA) (n := 5#16) ok rfl (by simp)
  obtain ⟨pass, resC, resA⟩ := held.shortFrame_passes
  have fits := State.ilen_fits (params ▸ ok) held.1 (by simp)
  exact ⟨_, l, _, execBuildShort_built s, loop, ilen, execValidateShort_accepts fits pass, ⟨rfl, rfl⟩, rfl, rfl, resC, resA⟩

/-- Settles O32: up to the changed byte's check the frame still passes. -/
theorem corruptedShortFrameIsRejected : Obligations.CorruptedShortFrameIsRejected := by
  intro s c a x ok
  have fits {k : Nat} (h : s.holds ((shortFrame c a).set k x)) : s.ops.ilen.toNat ≤ s.params.ibufSize :=
    State.ilen_fits ok h.1 (by simp)
  refine ⟨fun hx h => execValidateShort_rejects (fits h) ?start, fun hx h => execValidateShort_rejects (fits h) ?checksum,
    fun hx h => execValidateShort_rejects (fits h) ?stop⟩
  case start =>
    obtain ⟨-, changed, len⟩ := h.of_set (by simp)
    exact shortFrameError_start len.ge (changed ▸ hx)
  case checksum =>
    obtain ⟨rest, changed, len⟩ := h.of_set (by simp)
    have sum : sum8 (readBytes (s.bufByte .ibuf) 1 2) = c + a := by
      rw [← sum8_pair, ← rest 1 c (by decide) rfl, ← rest 2 a (by decide) rfl]
      rfl
    exact shortFrameError_checksum len.ge (rest 0 _ (by decide) rfl) (rest 4 _ (by decide) rfl) (by rwa [sum, changed])
  case stop =>
    obtain ⟨rest, changed, len⟩ := h.of_set (by simp)
    exact shortFrameError_stop len.ge (rest 0 _ (by decide) rfl) (changed ▸ hx)

/-! ## Long frames -/

section
variable {rd : Nat → Byte} {c a ci : Byte} {payload : List Byte} {k : Nat}

/-- The two length bytes agree, and are the payload's length and 3 (R85). -/
theorem readsBut.lengthBytes (r : readsBut rd (longFrame c a ci payload) k) (h1 : k ≠ 1) (h2 : k ≠ 2)
    (short : payload.length ≤ 252) : rd 1 = rd 2 ∧ (rd 1).toNat = payload.length + 3 := by
  have first : rd 1 = longLength payload.length := r 1 _ h1.symm rfl
  exact ⟨first.trans (r 2 _ h2.symm rfl).symm, first ▸ longLength_toNat short⟩

/-- The bytes the checksum covers, when a byte from CHK on is the one changed (R103). -/
theorem readsBut.summed (r : readsBut rd (longFrame c a ci payload) k) (hk : payload.length + 7 ≤ k) :
    readBytes rd 4 (payload.length + 3) = c :: a :: ci :: payload :=
  readBytes_longFrame fun j v _ hj hv => r j v (by omega) hv

/-- The two START bytes, when a byte from CHK on is the one changed (R85). -/
theorem readsBut.starts (r : readsBut rd (longFrame c a ci payload) k) (hk : payload.length + 7 ≤ k) :
    rd 0 = longStart ∧ rd 3 = longStart :=
  ⟨r 0 _ (by omega) rfl, r 3 _ (by omega) rfl⟩

end

/-- A long frame in place passes every check (R124). -/
theorem State.holds.longFrame_passes {s : State} {c a ci : Byte} {payload : List Byte}
    (h : s.holds (longFrame c a ci payload)) (short : payload.length ≤ 252) :
    longFrameError (s.bufByte .ibuf) s.ops.ilen.toNat = none := by
  have r := h.reads (payload.length + 9)
  obtain ⟨same, lengthByte⟩ := r.lengthBytes (by omega) (by omega) short
  obtain ⟨start0, start3⟩ := r.starts (by omega)
  have len : s.ops.ilen.toNat = payload.length + 9 := h.1.trans (longFrame_length ..)
  rw [longFrameError_eq_none_iff, lengthByte, r.summed (by omega)]
  exact ⟨by omega, same, start0, start3, by omega, by omega, r _ _ (by omega) (longFrame_stop ..),
    r _ _ (by omega) (longFrame_chk ..)⟩

/-- Settles O31: LOOP leaves the long frame held, and a long frame held passes with its C, A, CI and payload. -/
theorem longFrameRoundTrip : Obligations.LongFrameRoundTrip := by
  intro s ok small
  have count := s.payloadOperand_length
  have short : s.payloadOperand.length ≤ 252 := count.trans_le small
  obtain ⟨l, loop, ilen, params, held⟩ :=
    State.loop_built (s := s) (bs := longFrame s.ops.opC s.ops.opA s.ops.opCI s.payloadOperand) (n := s.ops.plen + 9#16)
      ok (by rw [plen_add_nine_toNat small, longFrame_length, count]) (by rw [longFrame_length]; omega)
  have byte {k : Nat} {v : Byte} := State.holds_getElem? held (k := k) (v := v)
  have fits := State.ilen_fits (params ▸ ok) held.1 (by rw [longFrame_length]; omega)
  refine ⟨_, l, _, execBuildLong_built (small.trans ok.2) small, loop, ilen,
    execValidateLong_accepts fits (held.longFrame_passes short), ⟨rfl, rfl⟩, rfl, byte rfl, byte rfl, byte rfl, ?plen,
    fun p hp => ?carried⟩
  case plen =>
    obtain ⟨-, lengthByte⟩ := (held.reads 0).lengthBytes (by decide) (by decide) short
    show BitVec.ofNat 16 ((l.bufByte .ibuf 1).toNat - 3) = s.ops.plen
    rw [lengthByte, Nat.add_sub_cancel, count, BitVec.ofNat_toNat, BitVec.setWidth_eq]
  case carried =>
    have inside : p < s.payloadOperand.length := count.symm ▸ hp
    exact (byte (longFrame_payload _ _ _ _ inside)).trans (s.payloadOperand_getElem inside)

/-- A long frame with a START byte changed still has equal length bytes, so it fails with ERR_START (R124, R126). -/
theorem State.holds.longFrame_badStart {s : State} {c a ci x : Byte} {payload : List Byte} {k : Nat}
    (h : s.holds ((longFrame c a ci payload).set k x)) (hk : k = 0 ∨ k = 3) (hx : x ≠ longStart)
    (short : payload.length ≤ 252) : longFrameError (s.bufByte .ibuf) s.ops.ilen.toNat = some .start := by
  have length : (longFrame c a ci payload).length = payload.length + 9 := longFrame_length ..
  obtain ⟨rest, changed, len⟩ := h.of_set (by omega)
  obtain ⟨same, -⟩ := rest.lengthBytes (by omega) (by omega) short
  refine longFrameError_start (by omega) same ?_
  rcases hk with rfl | rfl
  · exact .inl (changed ▸ hx)
  · exact .inr (changed ▸ hx)

/-- Settles O33: up to the changed byte's check the frame still passes. -/
theorem corruptedLongFrameIsRejected : Obligations.CorruptedLongFrameIsRejected := by
  intro s c a ci x payload ok short
  have length : (longFrame c a ci payload).length = payload.length + 9 := longFrame_length ..
  have fits {k : Nat} (h : s.holds ((longFrame c a ci payload).set k x)) : s.ops.ilen.toNat ≤ s.params.ibufSize :=
    State.ilen_fits ok h.1 (by rw [List.length_set]; omega)
  refine ⟨fun hx h => execValidateLong_rejects (fits h) (h.longFrame_badStart (.inl rfl) hx short),
    fun hx h => execValidateLong_rejects (fits h) (h.longFrame_badStart (.inr rfl) hx short),
    fun hx h => execValidateLong_rejects (fits h) ?checksum, fun hx h => execValidateLong_rejects (fits h) ?stop⟩
  case checksum =>
    obtain ⟨rest, changed, len⟩ := h.of_set (by omega)
    obtain ⟨same, lengthByte⟩ := rest.lengthBytes (by omega) (by omega) short
    have stop : s.bufByte .ibuf (payload.length + 8) = stopByte := rest _ _ (by omega) (longFrame_stop ..)
    rw [longFrame_chk, ne_eq, Option.some_inj] at hx
    exact longFrameError_checksum (by omega) same (rest.starts le_rfl) (by omega) (by omega) (by rw [lengthByte, stop])
      (by rwa [lengthByte, changed, rest.summed le_rfl])
  case stop =>
    obtain ⟨rest, changed, len⟩ := h.of_set (by omega)
    obtain ⟨same, lengthByte⟩ := rest.lengthBytes (by omega) (by omega) short
    exact longFrameError_stop (by omega) same (rest.starts (by omega)) (by omega) (by omega) (by rwa [lengthByte, changed])

end Sys2Proof.Machine
end

section
/-! SUPPORT. DECODE_HEADER (spec/42_header_decode.md R150 to R154): the header fields in plain arithmetic, and the walk's start
after a decode. -/

namespace Sys2Proof.Machine

/-! ## The header fields -/

/-- A register of `8 n` bits holds all of an `n`-byte little-endian read (R10). -/
theorem State.memRead_toNat (s : State) (b : Buf) (i n : Nat) :
    (BitVec.ofNat (8 * n) (s.memRead b i n)).toNat = valueOf (s.bufByte b) i n := by
  have fits : valueOf (s.bufByte b) i n < 2 ^ (8 * n) := (valueOf_lt _ i n).trans_eq (Nat.pow_mul 2 8 n).symm
  rw [State.memRead, leValue_readBytes, BitVec.toNat_ofNat, Nat.mod_eq_of_lt fits]

/-- Settles O34: the three branches of `execDecodeHeader`; the fields lose nothing of the bytes read, and the tag is
`manufTag_toNat`. -/
theorem decodeHeaderResult : Obligations.DecodeHeaderResult := by
  refine ⟨rfl, fun s => ⟨execDecodeHeader_noFrame, execDecodeHeader_short, fun kind fits => ?decodes⟩⟩
  refine ⟨_, execDecodeHeader_decodes kind (Nat.not_lt.2 fits), ?secAddr, ?manuf, ?mtag, rfl, rfl, rfl, rfl, ?sig, rfl⟩
  case secAddr => exact s.memRead_toNat .ibuf 7 4
  case manuf => exact s.memRead_toNat .ibuf 11 2
  case mtag => exact manufTag_toNat _
  case sig => exact s.memRead_toNat .ibuf 17 2

/-! ## Another command after a decode (R154) -/

/-- DECODE_HEADER writes the HDR_* registers and the report, and nothing else, on each of its branches (R152). -/
theorem exec_decodeHeader_writes {s t : State} (run : exec .decodeHeader s = .next t) :
    ∃ failed code, t = (s.setHdr t.hdr).report failed code := by
  cases effect_of_exec run with
  | headerNoFrame | headerShort | decodes => exact ⟨_, _, rfl⟩
  | rejects _ _ _ family => simp at family

/-- DECODE_HEADER reads neither the HDR_* registers nor the report (R206). -/
theorem exec_decodeHeader_setHdr_report (s : State) (h : HdrRegs) (failed : Bool) (code : ErrCode) :
    exec .decodeHeader ((s.setHdr h).report failed code) = exec .decodeHeader s := rfl

/-- WALK_START reads neither the HDR_* registers nor the report, and keeps the former (R171). -/
theorem exec_walkStart_setHdr_report {s u : State} (run : exec .walkStart s = .next u) (h : HdrRegs) (failed : Bool)
    (code : ErrCode) : exec .walkStart ((s.setHdr h).report failed code) = .next (u.setHdr h) := by
  cases effect_of_exec run with
  | startNoFrame _ kind => exact execWalkStart_noFrame (s := (s.setHdr h).report failed code) kind
  | starts _ kind => exact execWalkStart_starts (s := (s.setHdr h).report failed code) kind
  | rejects _ _ _ family => simp at family

/-- Settles O35: what a decode writes, `exec_decodeHeader_writes`, neither command reads. -/
theorem decodeHeaderRepeats : Obligations.DecodeHeaderRepeats := by
  intro s
  obtain ⟨t, run, -⟩ := exec_effect .decodeHeader s
  obtain ⟨-, walk⟩ := exec_keeps_walker run (by decide) (by decide)
  obtain ⟨failed, code, written⟩ := exec_decodeHeader_writes run
  refine ⟨t, run, ?again, walk, fun u start => ?start⟩
  case again => rw [written, exec_decodeHeader_setHdr_report, run, ← written]
  case start =>
    rw [written]
    exact exec_walkStart_setHdr_report start t.hdr failed code

end Sys2Proof.Machine
end

section
/-! SUPPORT. The record walker (spec/43_record_walk.md R170 to R179): the starts and the ends of a walk, the interpretation of
an emitted record, what a WALK_NEXT reads, and the length of a walk. -/

namespace Sys2Proof.Machine

/-! ## The start of a walk (R171) -/

/-- The state a WALK_START over a held long frame leaves (R171). -/
def State.walkStarted (s : State) : State :=
  { s with
    record := RecRegs.zero
    errcode := .ok
    walk := { off := s.ops.walkBase, reason := .none, index := 0 }
    status := { s.status with err := false, walkActive := true, recValid := false } }

theorem exec_walkStart_walkStarted {s : State} (kind : s.status.fkind = .long) :
    exec .walkStart s = .next s.walkStarted :=
  execWalkStart_starts kind

/-- Settles O36: the two branches of `execWalkStart`. -/
theorem walkStartResult : Obligations.WalkStartResult :=
  ⟨rfl, fun _ => ⟨execWalkStart_noFrame, exec_walkStart_walkStarted⟩⟩

/-- Settles O40: the first branch of `execWalkNext`. -/
theorem walkNextNeedsAWalk : Obligations.WalkNextNeedsAWalk :=
  fun _ => execWalkNext_noWalk

/-! ## The end of a walk (R177) -/

/-- No record lies at the cursor, for the given reason (R176, R177). -/
def State.cursorEnds (s : State) (why : WalkReason) : Prop :=
  (s.payloadLen ≤ s.cursor ∧ why = .endOfData) ∨
  (s.cursor < s.payloadLen ∧ 7 < s.cursorCode ∧ why = .reservedDfc) ∨
  (s.cursor < s.payloadLen ∧ s.cursorCode ≤ 7 ∧ s.payloadLen < s.cursorData + s.cursorLen ∧ why = .truncated)

theorem State.walkFind_ends {s : State} {why : WalkReason} (h : s.cursorEnds why) :
    walkFind s.payloadByte s.res.plen.toNat s.walk.off.toNat = .ended why := by
  rw [s.walkFind_cursor]
  obtain ⟨past, rfl⟩ | ⟨inside, reserved, rfl⟩ | ⟨inside, code, cut, rfl⟩ := h
  · rw [if_pos past]
  · rw [if_neg (Nat.not_le.2 inside), if_pos reserved]
  · rw [if_neg (Nat.not_le.2 inside), if_neg (Nat.not_lt.2 code), if_pos cut]

/-- Settles O39: the look finds no record, and the writes of such a look are the whole next state. -/
theorem walkNextEndsTheWalk : Obligations.WalkNextEndsTheWalk := by
  refine ⟨rfl, fun s why active ends => (execWalkNext_looks active).trans ?_⟩
  rw [State.walkFind_ends ends]
  rfl

/-- A walk whose first DIF has a data field code of 15 ends there (R179): the two commands' whole next state. -/
theorem runCommands_reservedFirst {s : State} (kind : s.status.fkind = .long)
    (inside : s.ops.walkBase.toNat < s.res.plen.toNat) (code : (s.payloadByte s.ops.walkBase.toNat).toNat % 16 = 15) :
    runCommands [.walkStart, .walkNext] s =
      .next { s with
              record := RecRegs.zero, errcode := .ok
              walk := { off := s.ops.walkBase, reason := .reservedDfc, index := 0 }
              status := { s.status with err := false, recValid := false, walkActive := false } } := by
  have reserved : 7 < s.walkStarted.cursorCode := (by decide : 7 < 15).trans_eq code.symm
  have ends := walkNextEndsTheWalk.2 s.walkStarted .reservedDfc rfl (.inr (.inl ⟨inside, reserved, rfl⟩))
  simp only [runCommands, exec_walkStart_walkStarted kind, ends]
  rfl

/-- Settles O41: `runCommands_reservedFirst`, whose hypotheses on IBUF speak of one byte alone. -/
theorem reservedFirstRecordYieldsNothing : Obligations.ReservedFirstRecordYieldsNothing := by
  intro s kind inside code
  refine ⟨_, runCommands_reservedFirst kind inside code, rfl, rfl, rfl, rfl, ⟨rfl, rfl⟩, fun m same => ?_⟩
  exact runCommands_reservedFirst (s := s.setIbuf m) kind inside (same ▸ code)

/-! ## What a WALK_NEXT reads (R170) -/

/-- The writes after a look at the payload do not depend on IBUF (R176). -/
theorem State.walkStep_setIbuf (s : State) (w : WalkFind) (m : Memory) :
    (s.setIbuf m).walkStep w = (s.walkStep w).setIbuf m := by
  cases w <;> rfl

/-- Settles O42: without a walk nothing is read; with one the look reads below RES_PLEN, by `walkFind_congr`. -/
theorem walkReadsOnlyThePayload : Obligations.WalkReadsOnlyThePayload := by
  intro s m agree
  cases active : s.status.walkActive with
  | false => exact ⟨_, execWalkNext_noWalk active, execWalkNext_noWalk (s := s.setIbuf m) active⟩
  | true =>
    have look : walkFind (s.setIbuf m).payloadByte s.res.plen.toNat s.walk.off.toNat =
        walkFind s.payloadByte s.res.plen.toNat s.walk.off.toNat := walkFind_congr _ agree
    refine ⟨_, execWalkNext_looks active, (execWalkNext_looks (s := s.setIbuf m) active).trans ?_⟩
    rw [State.setIbuf_res, State.setIbuf_walk, look]
    exact congrArg finish (s.clearRec.walkStep_setIbuf _ m)

/-! ## The interpretation of a record (R174) -/

/-- The little-endian value of four bytes, byte by byte (R10). -/
theorem valueOf_four (rd : Nat → Byte) (i : Nat) : valueOf rd i 4 =
    (rd i).toNat + 256 * (rd (i + 1)).toNat + 65536 * (rd (i + 2)).toNat + 16777216 * (rd (i + 3)).toNat := by
  have none (j : Nat) : valueOf rd j 0 = 0 := rfl
  simp only [valueOf_succ, none, Nat.add_assoc, Nat.reduceAdd]
  omega

section
variable {code : BitVec 4} {vif : Byte} {raw : Wide} {r : RecRegs}

theorem interpret_datetime : interpret 4#4 vifDateTime raw r =
    { r with
      kind := .datetime
      minute := rawByte raw 0
      hour := rawByte raw 1
      day := compactDay (rawByte raw 2)
      month := compactMonth (rawByte raw 3)
      year := compactYear (rawByte raw 2) (rawByte raw 3) } := rfl

theorem interpret_counter (h : vif ≠ vifDateTime) :
    interpret 4#4 vif raw r = { r with kind := .counter32, value := raw.setWidth 32 } := if_neg h

theorem interpret_date : interpret 2#4 vifDate raw r =
    { r with
      kind := .date
      day := compactDay (rawByte raw 0)
      month := compactMonth (rawByte raw 1)
      year := compactYear (rawByte raw 0) (rawByte raw 1) } := rfl

theorem interpret_raw (h4 : code ≠ 4#4) (h2 : ¬(code = 2#4 ∧ vif = vifDate)) : interpret code vif raw r = r :=
  (if_neg h4).trans (if_neg h2)

end

section
variable {s : State}

/-- The registers of the record at the cursor before its interpretation: the value registers 0, the kind RAW (R36, R173). -/
def State.cursorPlain (s : State) : RecRegs :=
  { RecRegs.zero with
    flags := recFlags s.cursorDif s.cursorVif
    dif := s.cursorDif
    dife := if s.cursorE = 1 then s.payloadByte (s.cursor + 1) else 0
    vif := s.cursorVif
    vife := if s.cursorV = 1 then s.payloadByte (s.cursor + 2 + s.cursorE) else 0
    storage := storageNumber s.cursorDif (if s.cursorE = 1 then s.payloadByte (s.cursor + 1) else 0)
    len := BitVec.ofNat 8 s.cursorLen
    rawOff := BitVec.ofNat 16 s.cursorData
    raw := BitVec.ofNat 64 (leValue (readBytes s.payloadByte s.cursorData s.cursorLen)) }

theorem State.cursorRecord_eq_interpret (s : State) :
    s.cursorRecord = interpret (difCode s.cursorDif) s.cursorVif s.cursorPlain.raw s.cursorPlain := rfl

theorem State.cursorPlain_raw (s : State) : s.cursorPlain.raw = s.cursorRecord.raw := by
  rw [s.cursorRecord_eq_interpret, interpret_keeps]

theorem State.difCode_cursorDif {c : BitVec 4} : difCode s.cursorDif = c ↔ s.cursorCode = c.toNat := by
  rw [← BitVec.toNat_inj, difCode_toNat]
  rfl

theorem State.rawByte_cursorPlain {k : Nat} (h : k < s.cursorLen) :
    rawByte s.cursorPlain.raw k = s.payloadByte (s.cursorData + k) :=
  rawByte_toNat _ _ _ _ h (dataLength_le _)

/-- The counter of a four-byte record is its data, least significant byte first (R174). -/
theorem State.cursorPlain_counter (len : s.cursorLen = 4) :
    (s.cursorPlain.raw.setWidth 32).toNat = valueOf s.payloadByte s.cursorData 4 := by
  have small : valueOf s.payloadByte s.cursorData 4 < 2 ^ 32 := valueOf_lt ..
  rw [BitVec.toNat_setWidth, s.cursorPlain_raw, s.cursorRecord_raw, len, Nat.mod_eq_of_lt small]

end

/-- Settles O38: an emitted record is `cursorRecord`, its interpretation one of the four branches of `interpret`. -/
theorem walkNextInterpretsTheRecord : Obligations.WalkNextInterpretsTheRecord := by
  refine ⟨rfl, fun s t b active fits run hb => ?_⟩
  obtain rfl := Host.Outcome.next.inj ((execWalkNext_emits active fits).symm.trans run)
  have byte {k : Nat} (h : k < s.cursorLen) : (rawByte s.cursorPlain.raw k).toNat = b k := by
    rw [State.rawByte_cursorPlain h, hb]
  have record := s.cursorRecord_eq_interpret
  dsimp only
  refine ⟨fun code vif => ?datetime, fun code vif => ?counter, fun code vif => ?date, fun not4 notDate => ?raw⟩
  case datetime =>
    have len : s.cursorLen = 4 := congrArg (ltab.getD · 0) code
    rw [(State.difCode_cursorDif (c := 4#4)).2 code, vif] at record
    rw [record.trans interpret_datetime, ← byte (k := 0) (by omega), ← byte (k := 1) (by omega),
      ← byte (k := 2) (by omega), ← byte (k := 3) (by omega)]
    exact ⟨rfl, rfl, rfl, rfl, BitVec.toNat_and .., BitVec.toNat_and .., compactYear_toNat ..⟩
  case counter =>
    have len : s.cursorLen = 4 := congrArg (ltab.getD · 0) code
    rw [(State.difCode_cursorDif (c := 4#4)).2 code] at record
    rw [record.trans (interpret_counter vif)]
    refine ⟨rfl, (State.cursorPlain_counter len).trans ?_, rfl, rfl, rfl, rfl, rfl⟩
    rw [hb, hb, hb, hb]
    exact valueOf_four ..
  case date =>
    have len : s.cursorLen = 2 := congrArg (ltab.getD · 0) code
    rw [(State.difCode_cursorDif (c := 2#4)).2 code, vif] at record
    rw [record.trans interpret_date, ← byte (k := 0) (by omega), ← byte (k := 1) (by omega)]
    exact ⟨rfl, rfl, rfl, rfl, BitVec.toNat_and .., BitVec.toNat_and .., compactYear_toNat ..⟩
  case raw =>
    rw [record.trans (interpret_raw (mt State.difCode_cursorDif.1 not4)
      (mt (And.imp_left State.difCode_cursorDif.1) notDate))]
    exact ⟨rfl, rfl, rfl, rfl, rfl, rfl, rfl⟩

/-! ## Runs of commands -/

section
variable {i : Instr} {is js : List Instr} {s t : State}

theorem runCommands_cons (run : exec i s = .next t) : runCommands (i :: is) s = runCommands is t := by
  rw [runCommands, run]

theorem runCommands_append (run : runCommands is s = .next t) : runCommands (is ++ js) s = runCommands js t := by
  induction is generalizing s with
  | nil => cases run; rfl
  | cons i is ih =>
    obtain ⟨u, first, -⟩ := exec_effect i s
    rw [runCommands_cons first] at run
    rw [List.cons_append, runCommands_cons first, ih run]

/-- The induction over a command repeated: a property of the count and the state that each run of the command carries on. -/
theorem runCommands_replicate {P : Nat → State → Prop} (step : ∀ {k s t}, exec i s = .next t → P k s → P (k + 1) t)
    (start : P 0 s) (j : Nat) : ∃ t, runCommands (List.replicate j i) s = .next t ∧ P j t := by
  induction j with
  | zero => exact ⟨s, rfl, start⟩
  | succ j ih =>
    obtain ⟨u, run, holds⟩ := ih
    obtain ⟨t, last, -⟩ := exec_effect i u
    refine ⟨t, ?_, step last holds⟩
    rw [List.replicate_succ', runCommands_append run, runCommands_cons last, runCommands]

end

/-! ## The length of a walk (R178) -/

/-- How far `k` WALK_NEXTs bring a walk from `base` over a payload of `n` bytes: the records number no more than one for
every two bytes; while the walk is active there are `k` of them, each of two bytes or more and ending inside the payload. -/
structure State.WalkBounded (base n k : Nat) (s : State) : Prop where
  len : s.payloadLen = n
  count : s.walk.index.toNat ≤ (n - base) / 2
  progress : s.status.walkActive = true →
    s.walk.index.toNat = k ∧ base + 2 * k ≤ s.cursor ∧ (k = 0 ∨ s.cursor ≤ n)

theorem State.walkStarted_bounded (s : State) : s.walkStarted.WalkBounded s.ops.walkBase.toNat s.res.plen.toNat 0 where
  len := rfl
  count := Nat.zero_le _
  progress _ := ⟨rfl, le_rfl, .inl rfl⟩

section
variable {s t : State} {base n k : Nat}

/-- A record takes two bytes at least, its DIF and its VIF, and ends inside the payload (R93, R170), so one more keeps the
bound and REC_INDEX does not wrap. -/
theorem State.WalkBounded.emits (h : s.WalkBounded base n k) (active : s.status.walkActive = true) (fits : s.cursorFits)
    (len : t.payloadLen = s.payloadLen) (index : t.walk.index = s.walk.index + 1)
    (cursor : t.cursor = s.cursorData + s.cursorLen) : t.WalkBounded base n (k + 1) := by
  obtain ⟨hlen, -, progress⟩ := h
  obtain ⟨hk, far, -⟩ := progress active
  obtain ⟨-, -, inside⟩ := fits
  have header : s.cursor + 2 ≤ s.cursorData := by simp only [State.cursorData]; omega
  have short : s.payloadLen < 2 ^ 16 := s.res.plen.isLt
  have next : t.walk.index.toNat = k + 1 := by
    have one : (1 : Half).toNat = 1 := rfl
    rw [index, BitVec.toNat_add_of_lt (by omega), hk, one]
  exact ⟨len.trans hlen, by omega, fun _ => ⟨next, by omega, .inr (by omega)⟩⟩

/-- One more WALK_NEXT: the walk emits a record, ends, or has ended already and keeps its count (R176, C8). -/
theorem exec_walkNext_bounded (run : exec .walkNext s = .next t) (h : s.WalkBounded base n k) :
    t.WalkBounded base n (k + 1) := by
  cases effect_of_exec run with
  | emits _ active fits => exact h.emits active fits rfl rfl fits.place.1
  | ends => exact ⟨h.len, h.count, nofun⟩
  | nextNoWalk _ idle => exact ⟨h.len, h.count, fun active => absurd (idle.symm.trans active) nofun⟩
  | rejects _ _ _ family => simp at family

/-- Once the WALK_NEXTs outnumber the records there can be, the walk is over. -/
theorem State.WalkBounded.over (h : s.WalkBounded base n k) (hk : (n - base) / 2 + 1 ≤ k) :
    s.status.walkActive = false := by
  obtain ⟨-, count, progress⟩ := h
  refine Bool.eq_false_iff.2 fun active => ?_
  obtain ⟨index, -⟩ := progress active
  omega

end

/-- Settles O43: WALK_START meets the bound, each WALK_NEXT carries it on, and it says both claims. -/
theorem everyWalkEnds : Obligations.EveryWalkEnds := by
  intro s k kind
  obtain ⟨t, run, bounded⟩ := runCommands_replicate exec_walkNext_bounded s.walkStarted_bounded k
  exact ⟨t, (runCommands_cons (exec_walkStart_walkStarted kind)).trans run, bounded.count, bounded.over⟩

/-! ## A walk restarted (R171) -/

/-- A WALK_NEXT keeps the held frame's kind, and writes nothing a WALK_START over it does not write again (R171, R176). -/
theorem exec_walkNext_restartable {s t : State} (run : exec .walkNext s = .next t) :
    t.status.fkind = s.status.fkind ∧ t.walkStarted = s.walkStarted := by
  cases effect_of_exec run with
  | nextNoWalk | emits | ends => exact ⟨rfl, rfl⟩
  | rejects _ _ _ family => simp at family

/-- Settles O44: the WALK_NEXTs of the earlier walk keep the held frame's kind and what a WALK_START leaves. -/
theorem walkIsRestartable : Obligations.WalkIsRestartable := by
  intro s j k kind
  have first := exec_walkStart_walkStarted kind
  obtain ⟨t, walked, long, again⟩ :=
    runCommands_replicate (P := fun _ u => u.status.fkind = .long ∧ u.walkStarted = s.walkStarted)
      (fun run ⟨long, same⟩ =>
        have ⟨fkind, started⟩ := exec_walkNext_restartable run
        ⟨fkind.trans long, started.trans same⟩)
      (s := s.walkStarted) ⟨kind, rfl⟩ j
  rw [runCommands_cons first, runCommands_append walked, runCommands_cons (exec_walkStart_walkStarted long), again,
    runCommands_cons first]

end Sys2Proof.Machine
end

section
/-! SUPPORT. The errors (spec/60_exceptions.md R200 to R206): what a failing command leaves, which codes a command reports,
the operand check, and the illegal command. -/

namespace Sys2Proof.Machine

/-! ## What a command reports -/

section
variable {i : Instr} {s t : State}

/-- The family of R202 that a command's error clears. -/
def familyOf : Instr → Family
  | .buildShort | .buildLong => .build
  | .checksum => .checksum
  | .validateShort | .validateLong | .checkAck => .validate
  | .decodeHeader => .header
  | .walkStart => .walkStart
  | .walkNext => .walkNext

theorem State.rejected_eq_clearFamily (s : State) (c : ErrCode) :
    s.rejected c = (s.clearFamily .validate).report true c := rfl

/-- The two ends of a command: a success report, or one of the command's own codes over its family's cleared registers and
nothing else (R200, R202, R203). -/
theorem exec_reports (h : exec i s = .next t) :
    t.reportsOk ∨ (t.errcode ∈ raisedBy i ∧ t = (s.clearFamily (familyOf i)).report true t.errcode) := by
  cases effect_of_exec h with
  | rejects _ _ e family code =>
    refine .inr ⟨code, ?_⟩
    rcases family with rfl | rfl | rfl <;> exact s.rejected_eq_clearFamily e
  | buildTooBig | buildTooLong | sumTooBig | headerNoFrame | headerShort | startNoFrame | nextNoWalk =>
    exact .inr ⟨by simp [raisedBy], rfl⟩
  | buildsShort | buildsLong | sums | acceptsShort | acceptsLong | acceptsAck | decodes | starts | emits | ends =>
    exact .inl ⟨rfl, rfl⟩

/-- An ERR_OPERAND is the report of a command that reads ILEN or PLEN and finds it above its buffer's size (R201). -/
theorem exec_operand (h : exec i s = .next t) : t.errcode = .operand ↔
    ((i = .validateShort ∨ i = .validateLong ∨ i = .checkAck) ∧ s.params.ibufSize < s.ops.ilen.toNat) ∨
    ((i = .buildLong ∨ i = .checksum) ∧ s.params.pbufSize < s.ops.plen.toNat) := by
  cases effect_of_exec h with
  | rejects _ _ e family _ operand =>
    show e = .operand ↔ _
    rcases family with rfl | rfl | rfl <;> simp [operand]
  | buildTooBig _ big | sumTooBig _ big => simp [big]
  | buildsLong _ fits | buildTooLong _ fits | sums _ fits => simp [fits]
  | acceptsShort _ fits | acceptsLong _ fits | acceptsAck _ fits => simp [State.accepted, fits]
  | buildsShort | headerNoFrame | headerShort | decodes | startNoFrame | starts | nextNoWalk | emits | ends => simp

end

/-- Settles O45: an error report is made over the cleared family, and clearing it is the update R202 names. -/
theorem errorClearsOnlyItsFamily : Obligations.ErrorClearsOnlyItsFamily := by
  intro i s t run failed
  rcases exec_reports run with ⟨-, ok⟩ | ⟨-, cleared⟩
  · exact absurd ok failed
  · cases i <;> exact cleared

/-- Settles O46: the two reports of `exec_reports`, and the table of R200. -/
theorem reportedCodesAreTheCommandsOwn : Obligations.ReportedCodesAreTheCommandsOwn := by
  refine ⟨fun i s => ?_, rfl⟩
  obtain ⟨t, run, -⟩ := exec_effect i s
  refine ⟨t, run, (exec_reports run).imp_right fun ⟨code, cleared⟩ => ⟨?_, code⟩⟩
  rw [cleared, State.report_status]

/-- Settles O48: `exec_operand`, of the state the command answers. -/
theorem operandChecksComeFirst : Obligations.OperandChecksComeFirst := by
  intro i s
  obtain ⟨t, run, -⟩ := exec_effect i s
  exact ⟨t, run, exec_operand run⟩

/-! ## The last report is not read (R206) -/

theorem validateWith_report (check : Option ErrCode) (res : ResRegs) (kind : FrameKind) (s : State) (failed : Bool)
    (code : ErrCode) : validateWith check res kind (s.report failed code) = validateWith check res kind s := by
  cases check <;> rfl

theorem finish_walkStep_report (s : State) (w : WalkFind) (failed : Bool) (code : ErrCode) :
    finish ((s.report failed code).walkStep w) = finish (s.walkStep w) := by
  cases w <;> rfl

/-- Settles O47: no command reads the report, and each ends by writing both halves of it. -/
theorem errorsAreNotSticky : Obligations.ErrorsAreNotSticky := by
  intro i s e c
  show exec i (s.report e c) = exec i s
  cases i with
  | validateShort | validateLong | checkAck => exact validateWith_report _ _ _ s e c
  | walkNext => exact if_congr .rfl rfl (finish_walkStep_report s.clearRec _ e c)
  | buildShort | buildLong | checksum | decodeHeader | walkStart => rfl

/-! ## The illegal command -/

theorem encode_toNat (i : Instr) : 0 < (encode i).toNat ∧ (encode i).toNat < 10 := by
  cases i <;> decide

/-- Outside 0x01 to 0x09 there is no command (R81, R82). -/
theorem decode_illegal {b : Byte} (h : b.toNat = 0 ∨ 10 ≤ b.toNat) : ∃ e, decode b = .error e := by
  cases decoded : decode b with
  | error e => exact ⟨e, rfl⟩
  | ok i =>
    have range := encode_toNat i
    rw [encode_of_decode decoded] at range
    omega

/-- Settles O7: the byte decodes to no command, so the write stores it and makes the illegal-command report. -/
theorem illegalCommandOnlyReports : Obligations.IllegalCommandOnlyReports := by
  intro s v outside
  obtain ⟨e, decoded⟩ := decode_illegal outside
  exact ⟨_, doEvent_cmd_illegal s decoded, ⟨rfl, rfl⟩, rfl, rfl⟩

end Sys2Proof.Machine
end

section
/-! SUPPORT. Reset (spec/70_reset_and_hazards.md R230, R231) and the host's writes of the operand registers (R235, R68): the
values every reset leaves, and that an operand write is seen in its own register alone. -/

namespace Sys2Proof.Machine

/-- An unassigned number reads 0 (R24). -/
theorem State.hostReadReg_unassigned (s : State) {n : Byte} (h : Reg.ofNum n = none) : s.hostReadReg n = 0 := by
  simp only [State.hostReadReg, h]

/-! ## Reset -/

/-- The reset state of a machine with these sizes, at this draw of the buffers' contents, beside this host. -/
def State.resetWith (p : Params) (epoch : Nat) (host : HostPort) : State :=
  { State.reset with params := p, epoch := epoch, host := host }

/-- Power-on and the reset event leave the same block: they differ in the sizes, the draw and the host alone (R231). -/
theorem State.resetWith_of_reset {t : State} (h : t = State.reset ∨ ∃ s, doEvent .reset s = .next t) :
    ∃ p epoch host, t = State.resetWith p epoch host := by
  obtain rfl | ⟨s, run⟩ := h
  · exact ⟨Config.defaultParams, 0, State.reset.host, rfl⟩
  · cases run
    exact ⟨s.params, s.epoch + 1, s.host, rfl⟩

section
variable (p : Params) (epoch : Nat) (host : HostPort)

/-- The reset column of R23; no register shows the sizes, the draw or the host. -/
theorem State.readReg_resetWith (r : Reg) :
    (State.resetWith p epoch host).readReg r = if r.num = 0x06#8 then 0x000C#64 else 0 := by
  show State.reset.readReg r = _
  cases r <;> decide

theorem State.hostReadReg_resetWith (n : Byte) :
    (State.resetWith p epoch host).hostReadReg n = if n = 0x06#8 then 0x000C#64 else 0 := by
  cases hn : Reg.ofNum n with
  | none =>
    have notWalkBase : n ≠ 0x06#8 := by
      rintro rfl
      cases hn
    rw [State.hostReadReg_unassigned _ hn, if_neg notWalkBase]
  | some r =>
    obtain rfl := Reg.num_of_ofNum hn
    rw [State.hostReadReg_num, State.readReg_resetWith]

theorem State.mem_resetWith (b : Buf) : (State.resetWith p epoch host).mem b = [] := by
  cases b <;> rfl

/-- No byte is written yet, so each reads as the draw's free value (R231). -/
theorem State.bufByte_resetWith {b : Buf} {i : Nat} (h : i < (State.resetWith p epoch host).bufSize b) :
    (State.resetWith p epoch host).bufByte b i = Config.resetByte epoch b i := by
  rw [State.bufByte, if_pos h, State.mem_resetWith]
  rfl

end

/-- Settles O14: every reset leaves a `State.resetWith`. -/
theorem resetLeavesTheResetValues : Obligations.ResetLeavesTheResetValues := by
  intro t reset
  obtain ⟨p, epoch, host, rfl⟩ := State.resetWith_of_reset reset
  exact ⟨State.hostReadReg_resetWith p epoch host, fun _ _ => State.bufByte_resetWith p epoch host⟩

/-- Settles O15: the reset event answers `State.platformReset`, which takes the sizes and the host from the state. -/
theorem resetRunsFromAnyState : Obligations.ResetRunsFromAnyState :=
  fun s => ⟨s.platformReset, rfl, rfl, rfl, ⟨rfl, rfl⟩, rfl⟩

/-- Settles O53: the default sizes are legal, and the invariant of an asserted reset reads the draw in its clause about the
held frame alone, of which there is none. -/
theorem resetMeetsTheInvariant : Obligations.ResetMeetsTheInvariant :=
  { State.platformReset_inv (s := State.reset) (by decide) with held := trivial }

/-! ## Operand writes -/

section
variable (s : State) {r : Reg} (v : Wide)

/-- A register write but ILEN's is seen in the written register alone (R235(d)). -/
theorem State.readReg_writeReg_other {q : Reg} (hr : r ≠ .ilen) (hq : q ≠ r) :
    (s.writeReg r v).readReg q = s.readReg q := by
  cases r with
  | ilen => exact absurd rfl hr
  | cmd => cases q with | cmd => exact absurd rfl hq | _ => rfl
  | opC => cases q with | opC => exact absurd rfl hq | _ => rfl
  | opA => cases q with | opA => exact absurd rfl hq | _ => rfl
  | opCI => cases q with | opCI => exact absurd rfl hq | _ => rfl
  | plen => cases q with | plen => exact absurd rfl hq | _ => rfl
  | walkBase => cases q with | walkBase => exact absurd rfl hq | _ => rfl
  | _ => rfl

theorem State.hostReadReg_writeReg_other {m : Byte} (hr : r ≠ .ilen) (hm : m ≠ r.num) :
    (s.writeReg r v).hostReadReg m = s.hostReadReg m := by
  cases hn : Reg.ofNum m with
  | none => rw [State.hostReadReg_unassigned _ hn, State.hostReadReg_unassigned _ hn]
  | some q =>
    obtain rfl := Reg.num_of_ofNum hn
    rw [State.hostReadReg_num, State.hostReadReg_num, s.readReg_writeReg_other v hr fun same => hm (same ▸ rfl)]

/-- A register write but ILEN's touches nothing but the operand registers (R235(d), R68). -/
theorem State.writeReg_eq_setOps (hr : r ≠ .ilen) : s.writeReg r v = s.setOps (s.writeReg r v).ops := by
  rcases s.writeReg_cases r v with same | ⟨ilen, -⟩ | ⟨-, -, stores⟩
  · rw [same]
    rfl
  · exact absurd ilen hr
  · exact stores

/-- A write to a register that neither runs a command nor invalidates the held frame, by its number: the whole next state, and
what every other number reads. -/
theorem doEvent_regWrite_alone (hc : r ≠ .cmd) (hr : r ≠ .ilen) :
    ∃ t, doEvent (.regWrite r.num v) s = .next t ∧ t = { s with ops := t.ops } ∧
      ∀ m, m ≠ r.num → t.hostReadReg m = s.hostReadReg m :=
  ⟨s.writeReg r v, doEvent_regWrite s v hc, s.writeReg_eq_setOps v hr, fun _ => s.hostReadReg_writeReg_other v hr⟩

end

/-- Settles O9: the numbers are those of five operand registers, and `doEvent_regWrite_alone` speaks of each. -/
theorem operandWritesChangeNothingElse : Obligations.OperandWritesChangeNothingElse := by
  intro s n v h1 h6 h5
  obtain rfl | rfl | rfl | rfl | rfl :
      n = Reg.opC.num ∨ n = Reg.opA.num ∨ n = Reg.opCI.num ∨ n = Reg.plen.num ∨ n = Reg.walkBase.num := by
    simp only [Reg.num]
    bv_omega
  all_goals exact doEvent_regWrite_alone s v (by decide) (by decide)

end Sys2Proof.Machine
end
